-- ==== Sys2Proof/Word.lean ====
section
/-! DEFINITION. The word types of the fabric: spec/00_scope.md R6 (`AW = WW = 32`, `LANES = 4`) and R9 (all values unsigned). -/

namespace Sys2Proof

/-- A byte lane's contents, 8 bits (R47). -/
abbrev Byte := BitVec 8

/-- R9: a `Word` is a 32-bit unsigned value. -/
abbrev Word := BitVec 32

/-- R9: an `Addr` is a 32-bit unsigned value; R41: it is a byte address. -/
abbrev Addr := BitVec 32

/-- R9, R65: a byte-select mask, one bit per lane. -/
abbrev Mask := BitVec 4

/-- R64: the selector field `a[31:28]`. -/
abbrev Selector := BitVec 4

/-- R67: the 7-bit operation key `K` (the spec's own classification; no signal carries it). -/
abbrev Key := BitVec 7

end Sys2Proof
end

