-- ==== Sys2Proof/Syntax.lean ====
section
/-! DEFINITION. The operations of spec/opcode_table.json, one constructor per row (30_encoding.md R68), and the input record of
one cycle (R60, R61, R155). An `Instr` is ONE segment's operation in one cycle; a cycle performs two (R67). -/

namespace Sys2Proof

/-- The input record of one cycle: R60, R61 (signals and widths), R63 (total: one value per signal per cycle), R155. -/
structure Input where
  /-- `i_adr` -/
  iAdr  : Addr
  /-- `i_cyc` -/
  iCyc  : Bool
  /-- `d_adr` -/
  dAdr  : Addr
  /-- `d_cyc` -/
  dCyc  : Bool
  /-- `d_we` -/
  dWe   : Bool
  /-- `d_dat_w` -/
  dDatW : Word
  /-- `d_sel` -/
  dSel  : Mask
  deriving DecidableEq, Repr, Inhabited

/-- The operand values of a data-segment operation (R67: they are read by the operation's rule and are not part of the key).
An operation that ignores `datW` or `sel` still carries them: R63, the fabric's inputs are total. -/
structure DOperands where
  /-- `d_adr`, all 32 bits; its selector must lie in the group of the operation's row (WellFormed). -/
  adr  : Addr
  /-- `d_dat_w` -/
  datW : Word
  /-- `d_sel` -/
  sel  : Mask
  deriving DecidableEq, Repr, Inhabited

/-- One constructor per row of spec/opcode_table.json. The UNMAPPED operations have four rows each, one per selector group
(R68); the suffix names the group. -/
inductive Instr where
  /-- R120: instruction segment, `i_cyc = 0`. -/
  | iIdle (adr : Addr)
  /-- R121: instruction segment, `i_cyc = 1`. -/
  | iRead (adr : Addr)
  /-- R122: data segment, `d_cyc = 0`, `d_we = 0`, any selector. -/
  | dIdle (o : DOperands)
  /-- R123: `d_cyc = 1`, `d_we = 0`, selector 0x1. -/
  | dReadDs (o : DOperands)
  /-- R124: `d_cyc = 1`, `d_we = 0`, selector 0x2. -/
  | dReadOut (o : DOperands)
  /-- R125, row 0x60/0x7F: selector 0x0. -/
  | dReadUnm0 (o : DOperands)
  /-- R125, row 0x63/0x7F: selector 0x3. -/
  | dReadUnm3 (o : DOperands)
  /-- R125, row 0x64/0x7C: selectors 0x4-0x7. -/
  | dReadUnm4to7 (o : DOperands)
  /-- R125, row 0x68/0x78: selectors 0x8-0xF. -/
  | dReadUnm8toF (o : DOperands)
  /-- R126: `d_cyc = 1`, `d_we = 1`, selector 0x1. -/
  | dWriteDs (o : DOperands)
  /-- R127: `d_cyc = 1`, `d_we = 1`, selector 0x2. -/
  | dWriteOut (o : DOperands)
  /-- R128, row 0x70/0x7F: selector 0x0. -/
  | dWriteUnm0 (o : DOperands)
  /-- R128, row 0x73/0x7F: selector 0x3. -/
  | dWriteUnm3 (o : DOperands)
  /-- R128, row 0x74/0x7C: selectors 0x4-0x7. -/
  | dWriteUnm4to7 (o : DOperands)
  /-- R128, row 0x78/0x78: selectors 0x8-0xF. -/
  | dWriteUnm8toF (o : DOperands)
  /-- R129: `d_cyc = 0`, `d_we = 1`, selector 0x1. -/
  | dStrayDs (o : DOperands)
  /-- R130: `d_cyc = 0`, `d_we = 1`, selector 0x2. -/
  | dStrayOut (o : DOperands)
  /-- R131, row 0x50/0x7F: selector 0x0. -/
  | dStrayUnm0 (o : DOperands)
  /-- R131, row 0x53/0x7F: selector 0x3. -/
  | dStrayUnm3 (o : DOperands)
  /-- R131, row 0x54/0x7C: selectors 0x4-0x7. -/
  | dStrayUnm4to7 (o : DOperands)
  /-- R131, row 0x58/0x78: selectors 0x8-0xF. -/
  | dStrayUnm8toF (o : DOperands)
  deriving DecidableEq, Repr

/-- The rows of spec/opcode_table.json as names without operands, in the table's order: what an operation key alone decides. -/
inductive Row where
  | iIdle | iRead | dIdle
  | dReadDs | dReadOut | dReadUnm0 | dReadUnm3 | dReadUnm4to7 | dReadUnm8toF
  | dWriteDs | dWriteOut | dWriteUnm0 | dWriteUnm3 | dWriteUnm4to7 | dWriteUnm8toF
  | dStrayDs | dStrayOut | dStrayUnm0 | dStrayUnm3 | dStrayUnm4to7 | dStrayUnm8toF
  deriving DecidableEq, Repr

/-- The selector groups that R68's data-segment rows distinguish. -/
inductive Group where
  | dataStore | outputRegister | unm0 | unm3 | unm4to7 | unm8toF
  deriving DecidableEq, Repr

/-- The row an operation belongs to. -/
def Instr.row : Instr → Row
  | .iIdle _ => .iIdle
  | .iRead _ => .iRead
  | .dIdle _ => .dIdle
  | .dReadDs _ => .dReadDs
  | .dReadOut _ => .dReadOut
  | .dReadUnm0 _ => .dReadUnm0
  | .dReadUnm3 _ => .dReadUnm3
  | .dReadUnm4to7 _ => .dReadUnm4to7
  | .dReadUnm8toF _ => .dReadUnm8toF
  | .dWriteDs _ => .dWriteDs
  | .dWriteOut _ => .dWriteOut
  | .dWriteUnm0 _ => .dWriteUnm0
  | .dWriteUnm3 _ => .dWriteUnm3
  | .dWriteUnm4to7 _ => .dWriteUnm4to7
  | .dWriteUnm8toF _ => .dWriteUnm8toF
  | .dStrayDs _ => .dStrayDs
  | .dStrayOut _ => .dStrayOut
  | .dStrayUnm0 _ => .dStrayUnm0
  | .dStrayUnm3 _ => .dStrayUnm3
  | .dStrayUnm4to7 _ => .dStrayUnm4to7
  | .dStrayUnm8toF _ => .dStrayUnm8toF

/-- The operand values of an operation; an instruction-segment operation has an address only (R60), so the others read 0. -/
def Instr.operands : Instr → DOperands
  | .iIdle a | .iRead a => ⟨a, 0, 0⟩
  | .dIdle o
  | .dReadDs o | .dReadOut o | .dReadUnm0 o | .dReadUnm3 o | .dReadUnm4to7 o | .dReadUnm8toF o
  | .dWriteDs o | .dWriteOut o | .dWriteUnm0 o | .dWriteUnm3 o | .dWriteUnm4to7 o | .dWriteUnm8toF o
  | .dStrayDs o | .dStrayOut o | .dStrayUnm0 o | .dStrayUnm3 o | .dStrayUnm4to7 o | .dStrayUnm8toF o => o

end Sys2Proof
end

