-- ==== Sys2Proof/Config.lean ====
section
/-! DEFINITION. The construction-time parameters (00_scope.md R6) and the FREE VALUES: constants with no body, of which no proof
can see a value. -/

namespace Sys2Proof

/-- The parameters of R6 that a running fabric still depends on. They are fixed at construction and no bus access reaches
them (R27). `IMAGE` is not among them: construction copies it into the instruction store (R23). -/
structure Params where
  /-- `IDEPTH`, instruction-store depth in words. -/
  idepth       : Nat
  /-- `DDEPTH`, data-store depth in words. -/
  ddepth       : Nat
  /-- `HAS_INDICATOR` (R104). -/
  hasIndicator : Bool
  deriving DecidableEq, Repr

/-- The argument of construction (R180): the parameters and the firmware image (R181). -/
structure Config where
  params : Params
  /-- `IMAGE`, "an ordered sequence of 32-bit words" (R181). -/
  image  : List Word
  deriving DecidableEq, Repr

/-- R6: the reference value of both depths, 1024 words; 95_test_vectors.md: the reference configuration has the indicator. -/
def Params.reference : Params := ⟨1024, 1024, true⟩

/-- FREE VALUE (DESIGN CHOICE of the spec, 92_eei_decisions.md D5; safe; notes/assumptions/5.md): `r_out`, the word on `d_dat_r`
in cycle `t` when `d_adr` decodes to OUTPUT_REGISTER (R116). -/
opaque Config.rOut : Nat → Word

/-- FREE VALUE (DESIGN CHOICE of the spec, D6; safe; notes/assumptions/6.md): `stray_takes`, whether the stray write of cycle `t`
takes effect (R164). -/
opaque Config.strayTakes : Nat → Bool

/-- FREE VALUE (93_implementation_defined.md U4; safe; notes/assumptions/4.md): what the bus master drives in cycle `t` when the
state lists no input for it. -/
opaque Config.masterInput : Nat → Input

end Sys2Proof
end

