-- ==== Sys2Proof/Machine/State.lean ====
section
/-! DEFINITION. The state of the fabric (10_state.md R20-R32), the reasons a step or a construction can stop, and the state
after reset. -/

namespace Sys2Proof.Machine

open Sys2Proof

/-- The kinds of contract fault. R165: the model RECORDS `StrayWrite` in `State.faults` and goes on; no step and no construction
ends in a `Fault`, because the fabric signals no error (R160). -/
inductive Fault where
  /-- R164: a data-segment cycle with `d_we = 1`, `d_cyc = 0`. Raised (recorded) by the six D_STRAY rows; safe: a claim about a
  run with a broken contract must say so. -/
  | strayWrite
  deriving DecidableEq, Repr

/-- The reasons the model gives something no meaning. -/
inductive Refusal where
  /-- An operation whose arm of `exec` has no meaning yet (none is left); safe. -/
  | notModelled (mnemonic : String)
  /-- R165 `ImageTooLong`: raised by construction when the image has more words than the instruction store; records the two
  lengths; safe: no machine exists. -/
  | imageTooLong (words idepth : Nat)
  /-- R165 `ImageNotWordMultiple`: raised by the image loader on a byte stream whose length is no multiple of 4; records the
  length; safe: no machine exists. -/
  | imageNotWordMultiple (bytes : Nat)
  /-- R165 `BadDepth`: raised by construction on a depth that is no power of two or outside `1..2^26`; records the depth; safe:
  it refuses configurations the hardware might allow (D8). -/
  | badDepth (depth : Nat)
  deriving DecidableEq, Repr

/-- A store as its bytes: `(4*w + i, lane i of word w)` (R48), addresses strictly rising, no byte equal to `Memory.unlisted`
(`Memory.wf`, Machine/Ops.lean). -/
abbrev Memory := List Host.Cell

/-- What one segment drives in one cycle: `dat_r` and `ack` (R60, R61, R150). -/
structure SegOut where
  datR : Word
  ack  : Bool
  deriving DecidableEq, Repr

/-- The state. The first six elements are R20's and `faults` is R29's; `params` are the construction-time parameters (R6);
the last five fields are the MODEL's own (INVENTORY.md, '## State'). -/
@[ext]
structure State where
  /-- `IDEPTH`, `DDEPTH`, `HAS_INDICATOR`: fixed at construction (R27). -/
  params    : Params
  /-- `IS`, the instruction store (R23). -/
  is        : Memory
  /-- `DS`, the data store (R24). -/
  ds        : Memory
  /-- `OUT`, the output register (R25). -/
  out       : Word
  /-- `ACK_I`: false is IDLE, true is ACK_PENDING (R26, R141). -/
  ackI      : Bool
  /-- `ACK_D` (R26, R141). -/
  ackD      : Bool
  /-- `FAULTS` (R29): a set of kinds, held as a list without repeats. -/
  faults    : List Fault
  /-- MODEL's own: the number `t` of the current cycle (R10); the index of the cycle's free values. -/
  cycle     : Nat
  /-- MODEL's own: the input records the master drives in this cycle and the next ones, this cycle's first (R154). Where the
  list is empty the input is the free value `Config.masterInput`. -/
  script    : List Input
  /-- MODEL's own: what the instruction segment drove in the last cycle run; `none` before cycle 0. -/
  iOut      : Option SegOut
  /-- MODEL's own: what the data segment drove in the last cycle run; `none` before cycle 0. -/
  dOut      : Option SegOut
  /-- MODEL's own: what `indicator` showed in the last cycle run; `none` before cycle 0 and where no indicator exists (R104). -/
  indicator : Option Bool
  deriving DecidableEq, Repr

/-- R32, R184: the constructed state `S0` of the reference configuration (R6: both depths 1024) with an EMPTY image.
DESIGN CHOICE (unsafe; notes/assumptions/9.md): R6 gives `IMAGE` no reference value, so no firmware is invented;
`construct` (Machine/Construct.lean) gives `S0` of every configuration. -/
def State.reset : State where
  params    := Params.reference
  is        := []
  ds        := []
  out       := 0
  ackI      := false
  ackD      := false
  faults    := []
  cycle     := 0
  script    := []
  iOut      := none
  dOut      := none
  indicator := none

end Sys2Proof.Machine
end

