-- ==== Sys2Proof/Machine/Flags.lean ====
section
/-! DEFINITION. The status bits. The fabric has no flags or condition codes (R28); its one-bit status elements are the two
ack-pending bits (44_ack_generator.md), and the model's fault record stands beside them (R29, R164). -/

namespace Sys2Proof.Machine

open Sys2Proof

/-- R140, phase 2: `ACK_I <- i_cyc`. -/
def State.latchAckI (s : State) (cyc : Bool) : State := { s with ackI := cyc }

/-- R140, phase 2: `ACK_D <- d_cyc`. -/
def State.latchAckD (s : State) (cyc : Bool) : State := { s with ackD := cyc }

/-- R29: adding a kind to the set. -/
def addFault (f : Fault) (fs : List Fault) : List Fault := if f ∈ fs then fs else f :: fs

/-- R164: `raise ContractFault(kind)`: the kind is recorded and stepping continues; no step removes a kind. -/
def State.raiseContractFault (s : State) (f : Fault) : State := { s with faults := addFault f s.faults }

end Sys2Proof.Machine
end

