-- ==== Sys2Proof/Decode.lean ====
section
/-! DEFINITION. From a request's signals, or from an encoded operation, to an `Instr` (30_encoding.md R64-R72), and the encoder.

Two readers share one classification, `decodeKey`: `iInstr`/`dInstr` read the input record of a cycle (what the fabric does, R67),
and `decode` reads an operation laid out in bytes (the model's own frame, notes/assumptions/1.md). -/

namespace Sys2Proof

/-! ## Address fields and named constants -/

/-- R80: selector value of the data store (kept as a named constant, 91_not_in_source.md N20, U14). -/
def selDataStore : Selector := 0x1

/-- R80: selector value of the output register (N20, U14). -/
def selOutputRegister : Selector := 0x2

/-- R64: the selector field `a[31:28]`. -/
def selector (a : Addr) : Selector := a.extractLsb' 28 4

/-- R64: the 28 address bits below the selector, `a[27:0]`. -/
def offset (a : Addr) : BitVec 28 := a.extractLsb' 0 28

/-- R68: the selector group a selector value falls in. -/
def groupOf (s : Selector) : Group :=
  if s = selDataStore then .dataStore
  else if s = selOutputRegister then .outputRegister
  else if s = 0x0 then .unm0
  else if s = 0x3 then .unm3
  else if s < 0x8 then .unm4to7
  else .unm8toF

/-! ## The rows' fixed fields (R67, R68) -/

/-- `K[6]`: true for the data segment. -/
def Row.seg : Row → Bool
  | .iIdle | .iRead => false
  | _ => true

/-- `K[5]`: the segment's `cyc`. -/
def Row.cyc : Row → Bool
  | .iIdle | .dIdle => false
  | .iRead => true
  | .dReadDs | .dReadOut | .dReadUnm0 | .dReadUnm3 | .dReadUnm4to7 | .dReadUnm8toF => true
  | .dWriteDs | .dWriteOut | .dWriteUnm0 | .dWriteUnm3 | .dWriteUnm4to7 | .dWriteUnm8toF => true
  | .dStrayDs | .dStrayOut | .dStrayUnm0 | .dStrayUnm3 | .dStrayUnm4to7 | .dStrayUnm8toF => false

/-- `K[4]`: `d_we`; 0 on the instruction segment, which has no such input. -/
def Row.we : Row → Bool
  | .iIdle | .iRead | .dIdle => false
  | .dReadDs | .dReadOut | .dReadUnm0 | .dReadUnm3 | .dReadUnm4to7 | .dReadUnm8toF => false
  | .dWriteDs | .dWriteOut | .dWriteUnm0 | .dWriteUnm3 | .dWriteUnm4to7 | .dWriteUnm8toF => true
  | .dStrayDs | .dStrayOut | .dStrayUnm0 | .dStrayUnm3 | .dStrayUnm4to7 | .dStrayUnm8toF => true

/-- The selector group a row is limited to; `none` where R68 says "any". -/
def Row.group : Row → Option Group
  | .iIdle | .iRead | .dIdle => none
  | .dReadDs | .dWriteDs | .dStrayDs => some .dataStore
  | .dReadOut | .dWriteOut | .dStrayOut => some .outputRegister
  | .dReadUnm0 | .dWriteUnm0 | .dStrayUnm0 => some .unm0
  | .dReadUnm3 | .dWriteUnm3 | .dStrayUnm3 => some .unm3
  | .dReadUnm4to7 | .dWriteUnm4to7 | .dStrayUnm4to7 => some .unm4to7
  | .dReadUnm8toF | .dWriteUnm8toF | .dStrayUnm8toF => some .unm8toF

/-! ## The operation key (R67) -/

/-- R67: `K = seg, cyc, we, sel4` from the most significant bit down. -/
def mkKey (seg cyc we : Bool) (sel4 : Selector) : Key :=
  BitVec.ofBool seg ++ BitVec.ofBool cyc ++ BitVec.ofBool we ++ sel4

/-- R67: the instruction segment's key, with `we = 0` (it has no such input). -/
def Input.iKey (x : Input) : Key := mkKey false x.iCyc false (selector x.iAdr)

/-- R67: the data segment's key. -/
def Input.dKey (x : Input) : Key := mkKey true x.dCyc x.dWe (selector x.dAdr)

/-- The rows of `d_cyc = 1, d_we = 0` (R123-R125). -/
def readRow : Group → Row
  | .dataStore => .dReadDs
  | .outputRegister => .dReadOut
  | .unm0 => .dReadUnm0
  | .unm3 => .dReadUnm3
  | .unm4to7 => .dReadUnm4to7
  | .unm8toF => .dReadUnm8toF

/-- The rows of `d_cyc = 1, d_we = 1` (R126-R128). -/
def writeRow : Group → Row
  | .dataStore => .dWriteDs
  | .outputRegister => .dWriteOut
  | .unm0 => .dWriteUnm0
  | .unm3 => .dWriteUnm3
  | .unm4to7 => .dWriteUnm4to7
  | .unm8toF => .dWriteUnm8toF

/-- The rows of `d_cyc = 0, d_we = 1` (R129-R131). -/
def strayRow : Group → Row
  | .dataStore => .dStrayDs
  | .outputRegister => .dStrayOut
  | .unm0 => .dStrayUnm0
  | .unm3 => .dStrayUnm3
  | .unm4to7 => .dStrayUnm4to7
  | .unm8toF => .dStrayUnm8toF

/-- R68, R69: the operation map, total on the 128 keys. For `seg = 0` the bits `K[4:0]` are masked out. -/
def decodeKey (k : Key) : Row :=
  let group := groupOf (k.extractLsb' 0 4)
  match k.getLsbD 6, k.getLsbD 5, k.getLsbD 4 with
  | false, false, _ => .iIdle
  | false, true, _ => .iRead
  | true, false, false => .dIdle
  | true, true, false => readRow group
  | true, true, true => writeRow group
  | true, false, true => strayRow group

/-- One row of R68: an operation applies when `K & mask == pattern`. -/
structure OpRow where
  pattern : Key
  mask    : Key
  row     : Row
  deriving DecidableEq, Repr

/-- R68's test of one row. -/
def OpRow.applies (r : OpRow) (k : Key) : Bool := k &&& r.mask == r.pattern

/-- The `match`/`mask` columns of R68, copied from spec/opcode_table.json in its order; `decodeKey` is checked against it. -/
def opTable : List OpRow :=
  [⟨0x00, 0x60, .iIdle⟩, ⟨0x20, 0x60, .iRead⟩, ⟨0x40, 0x70, .dIdle⟩,
   ⟨0x61, 0x7F, .dReadDs⟩, ⟨0x62, 0x7F, .dReadOut⟩,
   ⟨0x60, 0x7F, .dReadUnm0⟩, ⟨0x63, 0x7F, .dReadUnm3⟩, ⟨0x64, 0x7C, .dReadUnm4to7⟩, ⟨0x68, 0x78, .dReadUnm8toF⟩] ++
  [⟨0x71, 0x7F, .dWriteDs⟩, ⟨0x72, 0x7F, .dWriteOut⟩,
   ⟨0x70, 0x7F, .dWriteUnm0⟩, ⟨0x73, 0x7F, .dWriteUnm3⟩, ⟨0x74, 0x7C, .dWriteUnm4to7⟩, ⟨0x78, 0x78, .dWriteUnm8toF⟩] ++
  [⟨0x51, 0x7F, .dStrayDs⟩, ⟨0x52, 0x7F, .dStrayOut⟩,
   ⟨0x50, 0x7F, .dStrayUnm0⟩, ⟨0x53, 0x7F, .dStrayUnm3⟩, ⟨0x54, 0x7C, .dStrayUnm4to7⟩, ⟨0x58, 0x78, .dStrayUnm8toF⟩]

/-! ## From a row and operands to an operation -/

/-- The operation of a row on given operand values; an instruction-segment row takes the address only. -/
def Instr.ofRow (r : Row) (o : DOperands) : Instr :=
  match r with
  | .iIdle => .iIdle o.adr
  | .iRead => .iRead o.adr
  | .dIdle => .dIdle o
  | .dReadDs => .dReadDs o
  | .dReadOut => .dReadOut o
  | .dReadUnm0 => .dReadUnm0 o
  | .dReadUnm3 => .dReadUnm3 o
  | .dReadUnm4to7 => .dReadUnm4to7 o
  | .dReadUnm8toF => .dReadUnm8toF o
  | .dWriteDs => .dWriteDs o
  | .dWriteOut => .dWriteOut o
  | .dWriteUnm0 => .dWriteUnm0 o
  | .dWriteUnm3 => .dWriteUnm3 o
  | .dWriteUnm4to7 => .dWriteUnm4to7 o
  | .dWriteUnm8toF => .dWriteUnm8toF o
  | .dStrayDs => .dStrayDs o
  | .dStrayOut => .dStrayOut o
  | .dStrayUnm0 => .dStrayUnm0 o
  | .dStrayUnm3 => .dStrayUnm3 o
  | .dStrayUnm4to7 => .dStrayUnm4to7 o
  | .dStrayUnm8toF => .dStrayUnm8toF o

/-- R67: the instruction segment's operation in a cycle with input record `x`. -/
def iInstr (x : Input) : Instr := .ofRow (decodeKey x.iKey) ⟨x.iAdr, 0, 0⟩

/-- R67: the data segment's operation in a cycle with input record `x`. -/
def dInstr (x : Input) : Instr := .ofRow (decodeKey x.dKey) ⟨x.dAdr, x.dDatW, x.dSel⟩

/-- R72, R73 `nop`: both segments idle at address 0, `d_dat_w = 0`, `d_sel = 0`. -/
def Input.nop : Input := ⟨0, false, 0, false, false, 0, 0⟩

/-- The input record of a cycle whose one segment drives the operation `i`; the other segment is idle as in R72
(notes/assumptions/3.md: a cycle always performs an operation of each segment, R67). -/
def Instr.toInput (i : Instr) : Input :=
  let o := i.operands
  if i.row.seg then { Input.nop with dAdr := o.adr, dCyc := i.row.cyc, dWe := i.row.we, dDatW := o.datW, dSel := o.sel }
  else { Input.nop with iAdr := o.adr, iCyc := i.row.cyc }

/-! ## The byte frame of an operation

DESIGN CHOICE (safe; notes/assumptions/1.md): the spec gives the key bits only and says that a line's encoding is its keys
together with its input values (R72). The frame is 72 bits, stored little-endian in nine bytes:
bits 6..0 the key, bit 7 zero, bits 35..8 `adr[27:0]`, bits 67..36 `d_dat_w`, bits 71..68 `d_sel`; in an instruction-segment
frame bits 71..36 are zero. -/

/-- Why the decoder refuses bytes. -/
inductive DecodeError where
  /-- Fewer than nine bytes. -/
  | truncated
  /-- Bit 7, above the 7-bit key, is set. -/
  | reservedBit
  /-- An instruction-segment frame carries write data or a byte-select, which that segment does not have (R60). -/
  | noSuchSignal
  deriving DecidableEq, Repr

/-- The operation a 72-bit frame holds. -/
def decodeFrame (f : BitVec 72) : Except DecodeError Instr :=
  let key : Key := f.extractLsb' 0 7
  let row := decodeKey key
  let o : DOperands := ⟨key.extractLsb' 0 4 ++ f.extractLsb' 8 28, f.extractLsb' 36 32, f.extractLsb' 68 4⟩
  if f.getLsbD 7 then .error .reservedBit
  else if row.seg = false ∧ ¬(o.datW = 0 ∧ o.sel = 0) then .error .noSuchSignal
  else .ok (.ofRow row o)

/-- The decoder: total on any bytes, giving the operation of the first nine and the rest, or the reason it refuses. -/
def decode : List Byte → Except DecodeError (Instr × List Byte)
  | b0 :: b1 :: b2 :: b3 :: b4 :: b5 :: b6 :: b7 :: b8 :: rest =>
    match decodeFrame (b8 ++ b7 ++ b6 ++ b5 ++ b4 ++ b3 ++ b2 ++ b1 ++ b0) with
    | .ok i => .ok (i, rest)
    | .error e => .error e
  | _ => .error .truncated

/-- The little-endian bytes of a frame. -/
def frameBytes (f : BitVec 72) : List Byte :=
  [f.extractLsb' 0 8, f.extractLsb' 8 8, f.extractLsb' 16 8, f.extractLsb' 24 8, f.extractLsb' 32 8,
   f.extractLsb' 40 8, f.extractLsb' 48 8, f.extractLsb' 56 8, f.extractLsb' 64 8]

/-- The operation key of an operation (R67). -/
def Instr.key (i : Instr) : Key := mkKey i.row.seg i.row.cyc i.row.we (selector i.operands.adr)

/-- The frame of an operation. -/
def encodeFrame (i : Instr) : BitVec 72 :=
  i.operands.sel ++ i.operands.datW ++ offset i.operands.adr ++ (0 : BitVec 1) ++ i.key

/-- The encoder: the nine bytes of an operation. -/
def encode (i : Instr) : List Byte := frameBytes (encodeFrame i)

/-- The operation an opcode-table word stands for: its low `nbits` bits are the frame's, every bit above is 0. -/
def decodeTableWord (nbits w : Nat) : Option Instr :=
  if w % 2 ^ nbits < 2 ^ 72 then
    match decode (frameBytes (BitVec.ofNat 72 (w % 2 ^ nbits))) with
    | .ok (i, _) => some i
    | .error _ => none
  else none

end Sys2Proof
end

