-- ==== Sys2Proof/Machine/Operands.lean ====
section
/-! DEFINITION. What the fabric computes from the operand values: the destination and the word index of an address, and the byte
merge (40_address_decoder.md, 20_memory.md, 41_storage_unit.md). R66: it computes nothing else. -/

namespace Sys2Proof.Machine

open Sys2Proof

/-- R80: the destinations of the data segment. -/
inductive Dest where
  | dataStore | outputRegister | unmapped
  deriving DecidableEq, Repr

/-- R80: the address decoder, `decode(a)`. -/
def destOf (a : Addr) : Dest :=
  if selector a = selDataStore then .dataStore
  else if selector a = selOutputRegister then .outputRegister
  else .unmapped

/-- R42: `widx(a, D) = (a >> 2) mod D`. -/
def widx (a : Addr) (depth : Nat) : Nat := (a >>> 2).toNat % depth

/-- R47: lane `i` of a word, bits `8i+7..8i`. -/
def lane (w : Word) (i : Nat) : Byte := w.extractLsb' (8 * i) 8

/-- R47, R48: the word whose lanes 0 to 3 are the given bytes. -/
def ofLanes (b0 b1 b2 b3 : Byte) : Word := b3 ++ b2 ++ b1 ++ b0

/-- R93: lane `i` of a merge is the written word's where mask bit `i` is set, else the old word's. -/
def mergeLane (old v : Word) (m : Mask) (i : Nat) : Byte := if m.getLsbD i then lane v i else lane old i

/-- R93: the byte merge. -/
def merge (old v : Word) (m : Mask) : Word :=
  ofLanes (mergeLane old v m 0) (mergeLane old v m 1) (mergeLane old v m 2) (mergeLane old v m 3)

/-- R112: `ds_we`. -/
def dsWe (x : Input) : Bool := decide (destOf x.dAdr = .dataStore) && x.dWe

/-- R113: `out_we`. -/
def outWe (x : Input) : Bool := decide (destOf x.dAdr = .outputRegister) && x.dWe

/-- R164: `stray`. -/
def isStray (x : Input) : Bool := x.dWe && !x.dCyc

/-- R7, R180: `valid_depth(D)`: a power of two in `1..2^26`. -/
def validDepth (depth : Nat) : Bool := (List.range 27).any fun k => depth == 2 ^ k

end Sys2Proof.Machine
end

