-- ==== Sys2Proof/Machine/Ops.lean ====
section
/-! DEFINITION. The named operations over the stores, the output register and the segments' outputs. The fabric takes no exception
and returns from none (R160, R163), so there is no such operation; what it has instead is `State.raiseContractFault` (Flags). -/

namespace Sys2Proof.Machine

open Sys2Proof

/-! ## One byte of a store -/

/-- What a byte that no cell lists reads as: R24 (the data store starts zero-filled), R23 (the instruction store is
zero-padded). -/
def Memory.unlisted : Byte := 0x00

/-- One byte of a store. -/
def Memory.read : Memory → Nat → Byte
  | [], _ => Memory.unlisted
  | (k, v) :: rest, a => if k = a then v else Memory.read rest a

/-- A cell in front of a store, unless it holds what an unlisted byte reads as. -/
def Memory.consCell (a : Nat) (b : Byte) (m : Memory) : Memory := if b = Memory.unlisted then m else (a, b) :: m

/-- One byte of a store written, in the canonical form. -/
def Memory.write : Memory → Nat → Byte → Memory
  | [], a, b => Memory.consCell a b []
  | (k, v) :: rest, a, b =>
    if a < k then Memory.consCell a b ((k, v) :: rest)
    else if a = k then Memory.consCell a b rest
    else (k, v) :: Memory.write rest a b

/-- The canonical form from an address bound on: every address at least `lo`, strictly rising, no unlisted value. -/
def Memory.wfFrom : Nat → Memory → Bool
  | _, [] => true
  | lo, (k, v) :: rest => decide (lo ≤ k) && v != Memory.unlisted && Memory.wfFrom (k + 1) rest

/-- The canonical form of a store. -/
def Memory.wf (m : Memory) : Bool := Memory.wfFrom 0 m

/-- Every listed byte lies in a store of `depth` words. -/
def Memory.within (depth : Nat) (m : Memory) : Bool := m.all fun c => decide (c.1 < 4 * depth)

/-! ## The ports of a store (41_storage_unit.md) -/

/-- R90: `MemRead(S, idx)`; lane `i` is the byte at `4*idx + i` (R48). -/
def memRead (m : Memory) (idx : Nat) : Word :=
  ofLanes (m.read (4 * idx)) (m.read (4 * idx + 1)) (m.read (4 * idx + 2)) (m.read (4 * idx + 3))

/-- A whole word of a store replaced. -/
def putWord (m : Memory) (idx : Nat) (w : Word) : Memory :=
  (((m.write (4 * idx) (lane w 0)).write (4 * idx + 1) (lane w 1)).write (4 * idx + 2) (lane w 2)).write
    (4 * idx + 3) (lane w 3)

/-- R92: `MemWrite(DS, idx, m, v)` with enable `en`. -/
def memWrite (ds : Memory) (en : Bool) (idx : Nat) (m : Mask) (v : Word) : Memory :=
  if en then putWord ds idx (merge (memRead ds idx) v m) else ds

/-! ## The read-data multiplexers -/

/-- R115: `i_dat_r` at address `a`. -/
def State.iReadData (s : State) (a : Addr) : Word := memRead s.is (widx a s.params.idepth)

/-- R95, R116: the DATA_STORE arm, the word the data store's read port gives at address `a`. -/
def State.dsReadData (s : State) (a : Addr) : Word := memRead s.ds (widx a s.params.ddepth)

/-- R116: the OUTPUT_REGISTER arm, the free value `r_out` of the current cycle. -/
def State.outReadData (s : State) : Word := Config.rOut s.cycle

/-- R116: the UNMAPPED arm. -/
def unmappedReadData : Word := 0x00000000

/-- R116: `d_dat_r` at address `a`. -/
def State.dReadData (s : State) (a : Addr) : Word :=
  match destOf a with
  | .dataStore => s.dsReadData a
  | .outputRegister => s.outReadData
  | .unmapped => unmappedReadData

/-- R103, R104: `indicator`, bit 0 of `OUT`, where `HAS_INDICATOR` is true. -/
def State.indicatorNow (s : State) : Option Bool := if s.params.hasIndicator then some (s.out.getLsbD 0) else none

/-! ## What a segment does in a cycle -/

/-- The instruction segment drives `dat_r` and `ack` (R140, phase 1). -/
def State.driveI (s : State) (datR : Word) : State := { s with iOut := some ⟨datR, s.ackI⟩ }

/-- The data segment drives `dat_r` and `ack` (R140, phase 1). -/
def State.driveD (s : State) (datR : Word) : State := { s with dOut := some ⟨datR, s.ackD⟩ }

/-- The instruction segment's cycle: outputs from the pre-edge state, then the ack latch. -/
def State.iCycle (s : State) (datR : Word) (cyc : Bool) : State := (s.driveI datR).latchAckI cyc

/-- The data segment's cycle but for its writes: outputs from the pre-edge state, then the ack latch. -/
def State.dCycle (s : State) (datR : Word) (cyc : Bool) : State := (s.driveD datR).latchAckD cyc

/-- R112: the data store's write port, at the word of address `o.adr`. -/
def State.writeDs (s : State) (en : Bool) (o : DOperands) : State :=
  { s with ds := memWrite s.ds en (widx o.adr s.params.ddepth) o.sel o.datW }

/-- R100, R113: the output register takes the full write data; the mask is ignored. -/
def State.writeOut (s : State) (en : Bool) (o : DOperands) : State :=
  { s with out := if en then o.datW else s.out }

/-- R151, D6: `stray_takes`, the free value of the current cycle. -/
def State.strayTakes (s : State) : Bool := Config.strayTakes s.cycle

end Sys2Proof.Machine
end

