-- ==== Sys2Proof/Machine/Cycle.lean ====
section
/-! DEFINITION. What a clock cycle adds around its two operations: the master's input record, the indicator, the passing of time. -/

namespace Sys2Proof.Machine

open Sys2Proof

/-- The input record of the current cycle: the first one listed, else whatever the master drives (free; R154, U4). -/
def State.currentInput (s : State) : Input :=
  match s.script with
  | x :: _ => x
  | [] => Config.masterInput s.cycle

/-- The cycle's indicator, from the pre-edge `OUT` (R103, R152). -/
def State.beginCycle (s : State) : State := { s with indicator := s.indicatorNow }

/-- The clock edge ends the cycle: the next cycle's number and inputs (R10). -/
def State.endCycle (s : State) : State := { s with cycle := s.cycle + 1, script := s.script.tail }

/-- A next state handed on; a fault or a refusal kept. -/
def andThen (r : Host.Outcome State Fault Refusal) (f : State → Host.Outcome State Fault Refusal) :
    Host.Outcome State Fault Refusal :=
  match r with
  | .next s => f s
  | .fault e => .fault e
  | .refused e => .refused e

/-- One cycle with input record `x`: each segment performs its operation, `run` giving an operation's effect. R110: the two
operations commit at the same edge; they touch disjoint state (R54), so running one after the other is the same
(notes/assumptions/3.md). -/
def runCycle (run : Instr → State → Host.Outcome State Fault Refusal) (x : Input) (s : State) :
    Host.Outcome State Fault Refusal :=
  andThen (andThen (run (iInstr x) s.beginCycle) (run (dInstr x))) fun t => .next t.endCycle

/-- `s` with the operation of a table word, if it is one, as the operation of the current cycle (the other segment idle). -/
def State.placeInstr (s : State) (i : Option Instr) : State :=
  match i with
  | some i => { s with script := i.toInput :: s.script }
  | none => s

end Sys2Proof.Machine
end

