-- ==== Sys2Proof/Machine/DataRead.lean ====
section
/-! DEFINITION. The data segment's idle cycle and reads: D_IDLE (R122), D_READ_DS (R123), D_READ_OUT (R124), D_READ_UNM (R125). -/

namespace Sys2Proof.Machine

open Sys2Proof

/-- What R125 gives its four rows: zero, and the request is acknowledged like any other. -/
def State.readUnmapped (s : State) : State := s.dCycle unmappedReadData true

/-- R122: `d_dat_r` follows `d_adr` by R116 though nothing is active; write data and mask are read by nothing. -/
def execDIdle (o : DOperands) (s : State) : Host.Outcome State Fault Refusal :=
  .next (s.dCycle (s.dReadData o.adr) false)

/-- R123. -/
def execDReadDs (o : DOperands) (s : State) : Host.Outcome State Fault Refusal :=
  .next (s.dCycle (s.dsReadData o.adr) true)

/-- R124: `OUT` is not returned; `d_dat_r` is the free value of the cycle. -/
def execDReadOut (_o : DOperands) (s : State) : Host.Outcome State Fault Refusal :=
  .next (s.dCycle s.outReadData true)

/-- R125, selector 0x0. -/
def execDReadUnm0 (_o : DOperands) (s : State) : Host.Outcome State Fault Refusal := .next s.readUnmapped

/-- R125, selector 0x3. -/
def execDReadUnm3 (_o : DOperands) (s : State) : Host.Outcome State Fault Refusal := .next s.readUnmapped

/-- R125, selectors 0x4-0x7. -/
def execDReadUnm4to7 (_o : DOperands) (s : State) : Host.Outcome State Fault Refusal := .next s.readUnmapped

/-- R125, selectors 0x8-0xF. -/
def execDReadUnm8toF (_o : DOperands) (s : State) : Host.Outcome State Fault Refusal := .next s.readUnmapped

end Sys2Proof.Machine
end

