-- ==== Sys2Proof/Machine/DataStray.lean ====
section
/-! DEFINITION. The data segment's contract-violating cycles: D_STRAY_DS (R129), D_STRAY_OUT (R130), D_STRAY_UNM (R131). -/

namespace Sys2Proof.Machine

open Sys2Proof

/-- What R131 gives its four rows: nothing is written under any gating variant, and the fault is recorded. -/
def State.strayUnmapped (s : State) : State := (s.dCycle unmappedReadData false).raiseContractFault .strayWrite

/-- R129: the write happens or not, as the free value `stray_takes` of the cycle says; no ack follows. -/
def execDStrayDs (o : DOperands) (s : State) : Host.Outcome State Fault Refusal :=
  .next (((s.dCycle (s.dsReadData o.adr) false).writeDs s.strayTakes o).raiseContractFault .strayWrite)

/-- R130: the write happens or not, as the free value `stray_takes` of the cycle says; no ack follows. -/
def execDStrayOut (o : DOperands) (s : State) : Host.Outcome State Fault Refusal :=
  .next (((s.dCycle s.outReadData false).writeOut s.strayTakes o).raiseContractFault .strayWrite)

/-- R131, selector 0x0. -/
def execDStrayUnm0 (_o : DOperands) (s : State) : Host.Outcome State Fault Refusal := .next s.strayUnmapped

/-- R131, selector 0x3. -/
def execDStrayUnm3 (_o : DOperands) (s : State) : Host.Outcome State Fault Refusal := .next s.strayUnmapped

/-- R131, selectors 0x4-0x7. -/
def execDStrayUnm4to7 (_o : DOperands) (s : State) : Host.Outcome State Fault Refusal := .next s.strayUnmapped

/-- R131, selectors 0x8-0xF. -/
def execDStrayUnm8toF (_o : DOperands) (s : State) : Host.Outcome State Fault Refusal := .next s.strayUnmapped

end Sys2Proof.Machine
end

