-- ==== Sys2Proof/Machine/DataWrite.lean ====
section
/-! DEFINITION. The data segment's writes: D_WRITE_DS (R126), D_WRITE_OUT (R127), D_WRITE_UNM (R128). -/

namespace Sys2Proof.Machine

open Sys2Proof

/-- What R128 gives its four rows: the write is discarded and acknowledged. -/
def State.writeUnmapped (s : State) : State := s.dCycle unmappedReadData true

/-- R126: `d_dat_r` shows the pre-write word (R94). -/
def execDWriteDs (o : DOperands) (s : State) : Host.Outcome State Fault Refusal :=
  .next ((s.dCycle (s.dsReadData o.adr) true).writeDs true o)

/-- R127: the full word, mask ignored. -/
def execDWriteOut (o : DOperands) (s : State) : Host.Outcome State Fault Refusal :=
  .next ((s.dCycle s.outReadData true).writeOut true o)

/-- R128, selector 0x0. -/
def execDWriteUnm0 (_o : DOperands) (s : State) : Host.Outcome State Fault Refusal := .next s.writeUnmapped

/-- R128, selector 0x3. -/
def execDWriteUnm3 (_o : DOperands) (s : State) : Host.Outcome State Fault Refusal := .next s.writeUnmapped

/-- R128, selectors 0x4-0x7. -/
def execDWriteUnm4to7 (_o : DOperands) (s : State) : Host.Outcome State Fault Refusal := .next s.writeUnmapped

/-- R128, selectors 0x8-0xF. -/
def execDWriteUnm8toF (_o : DOperands) (s : State) : Host.Outcome State Fault Refusal := .next s.writeUnmapped

end Sys2Proof.Machine
end

