-- ==== Sys2Proof/Machine/InstrSegment.lean ====
section
/-! DEFINITION. The operations of the instruction segment: I_IDLE (R120) and I_READ (R121). -/

namespace Sys2Proof.Machine

open Sys2Proof

/-- R120. -/
def execIIdle (a : Addr) (s : State) : Host.Outcome State Fault Refusal := .next (s.iCycle (s.iReadData a) false)

/-- R121. -/
def execIRead (a : Addr) (s : State) : Host.Outcome State Fault Refusal := .next (s.iCycle (s.iReadData a) true)

end Sys2Proof.Machine
end

