-- ==== Sys2Proof/Machine/Dispatch.lean ====
section
/-! DEFINITION. One arm per operation: what it does in its segment's half of a cycle. -/

namespace Sys2Proof.Machine

def exec (i : Instr) (s : State) : Host.Outcome State Fault Refusal :=
  match i with
  | .iIdle a => Sys2Proof.Machine.execIIdle a s
  | .iRead a => Sys2Proof.Machine.execIRead a s
  | .dIdle o => Sys2Proof.Machine.execDIdle o s
  | .dReadDs o => Sys2Proof.Machine.execDReadDs o s
  | .dReadOut o => Sys2Proof.Machine.execDReadOut o s
  | .dReadUnm0 o => Sys2Proof.Machine.execDReadUnm0 o s
  | .dReadUnm3 o => Sys2Proof.Machine.execDReadUnm3 o s
  | .dReadUnm4to7 o => Sys2Proof.Machine.execDReadUnm4to7 o s
  | .dReadUnm8toF o => Sys2Proof.Machine.execDReadUnm8toF o s
  | .dWriteDs o => Sys2Proof.Machine.execDWriteDs o s
  | .dWriteOut o => Sys2Proof.Machine.execDWriteOut o s
  | .dWriteUnm0 o => Sys2Proof.Machine.execDWriteUnm0 o s
  | .dWriteUnm3 o => Sys2Proof.Machine.execDWriteUnm3 o s
  | .dWriteUnm4to7 o => Sys2Proof.Machine.execDWriteUnm4to7 o s
  | .dWriteUnm8toF o => Sys2Proof.Machine.execDWriteUnm8toF o s
  | .dStrayDs o => Sys2Proof.Machine.execDStrayDs o s
  | .dStrayOut o => Sys2Proof.Machine.execDStrayOut o s
  | .dStrayUnm0 o => Sys2Proof.Machine.execDStrayUnm0 o s
  | .dStrayUnm3 o => Sys2Proof.Machine.execDStrayUnm3 o s
  | .dStrayUnm4to7 o => Sys2Proof.Machine.execDStrayUnm4to7 o s
  | .dStrayUnm8toF o => Sys2Proof.Machine.execDStrayUnm8toF o s

end Sys2Proof.Machine
end

