-- ==== Sys2Proof/WellFormed.lean ====
section
/-! DEFINITION. Which operations a cycle can perform: the address of a row's operation lies in the row's selector group (R68). -/

namespace Sys2Proof

/-- R68: the address's selector is one the row admits; I_IDLE, I_READ and D_IDLE admit any. -/
def Instr.wf (i : Instr) : Bool :=
  match i.row.group with
  | none => true
  | some g => groupOf (selector i.operands.adr) == g

end Sys2Proof
end

