-- ==== Sys2Proof/Machine/Step.lean ====
section
/-! DEFINITION. One step of the machine is one clock cycle (45_cycle_step.md R151, R154). -/

namespace Sys2Proof.Machine

open Sys2Proof

/-- R154: the cycle with the current input record. -/
def step (s : State) : Host.Outcome State Fault Refusal := runCycle exec s.currentInput s

/-- `s` with the operation of an opcode-table word as the operation the next step runs. -/
def State.withFetchWord (s : State) (nbits w : Nat) : State := s.placeInstr (decodeTableWord nbits w)

end Sys2Proof.Machine
end

