-- ==== Sys2Proof/Machine/Construct.lean ====
section
/-! DEFINITION. Construction and the firmware image at its boundary (70_reset_and_hazards.md R180-R184). -/

namespace Sys2Proof.Machine

open Sys2Proof

/-- R182: the words of a byte stream's whole little-endian groups of four. -/
def imageWords : List Byte → List Word
  | b0 :: b1 :: b2 :: b3 :: rest => ofLanes b0 b1 b2 b3 :: imageWords rest
  | _ => []

/-- R182: the image loader. -/
def loadImage (bytes : List Byte) : Except Refusal (List Word) :=
  if bytes.length % 4 ≠ 0 then .error (.imageNotWordMultiple bytes.length) else .ok (imageWords bytes)

/-- R48: a word's bytes, lane 0 first. -/
def wordBytes (w : Word) : List Byte := [lane w 0, lane w 1, lane w 2, lane w 3]

/-- The store that holds the given bytes from address `a` on and is unlisted elsewhere. -/
def Memory.ofBytes : Nat → List Byte → Memory
  | _, [] => []
  | a, b :: rest => Memory.consCell a b (Memory.ofBytes (a + 1) rest)

/-- R23, R181: word `k` of the image is word `k` of the store; the rest is zero. -/
def imageStore (image : List Word) : Memory := Memory.ofBytes 0 (image.flatMap wordBytes)

/-- R32: the initial state `S0` of a configuration; the model's own fields as after reset. -/
def initialState (c : Config) : State := { State.reset with params := c.params, is := imageStore c.image }

/-- R180: construction, its checks in the spec's order. Of two bad depths the instruction store's is reported
(DESIGN CHOICE; notes/assumptions/12.md). -/
def construct (c : Config) : Host.Outcome State Fault Refusal :=
  if !validDepth c.params.idepth then .refused (.badDepth c.params.idepth)
  else if !validDepth c.params.ddepth then .refused (.badDepth c.params.ddepth)
  else if c.params.idepth < c.image.length then .refused (.imageTooLong c.image.length c.params.idepth)
  else .next (initialState c)

end Sys2Proof.Machine
end

