-- ==== Sys2Proof/Machine/CycleStep.lean ====
section
/-! DEFINITION. 45_cycle_step.md R151 transcribed: the whole fabric's cycle as one function of the state, the input record and the
two draws, routed by the address decoder. `step` does not call it: it runs the operations of the operation map, and that
the two agree is a claim. -/

namespace Sys2Proof.Machine

open Sys2Proof

/-- R150, R155: the outputs of a cycle. -/
structure Output where
  iDatR     : Word
  iAck      : Bool
  dDatR     : Word
  dAck      : Bool
  indicator : Option Bool
  deriving DecidableEq, Repr

/-- R151, phase 1. -/
def cycleOutputs (s : State) (x : Input) (rOut : Word) : Output where
  iDatR     := memRead s.is (widx x.iAdr s.params.idepth)
  iAck      := s.ackI
  dDatR     :=
    match destOf x.dAdr with
    | .dataStore => memRead s.ds (widx x.dAdr s.params.ddepth)
    | .unmapped => 0x00000000
    | .outputRegister => rOut
  dAck      := s.ackD
  indicator := if s.params.hasIndicator then some (s.out.getLsbD 0) else none

/-- R151, phase 2: every right-hand side reads the pre-edge state. The record of the driven outputs, the cycle number and the
list of inputs are the model's own. -/
def cycleNext (s : State) (x : Input) (rOut : Word) (strayTakes : Bool) : State :=
  let didx := widx x.dAdr s.params.ddepth
  let commit := !isStray x || strayTakes
  let o := cycleOutputs s x rOut
  { params    := s.params
    is        := s.is
    ds        := if dsWe x && commit then putWord s.ds didx (merge (memRead s.ds didx) x.dDatW x.dSel) else s.ds
    out       := if outWe x && commit then x.dDatW else s.out
    ackI      := x.iCyc
    ackD      := x.dCyc
    faults    := if isStray x then addFault .strayWrite s.faults else s.faults
    cycle     := s.cycle + 1
    script    := s.script.tail
    iOut      := some ⟨o.iDatR, o.iAck⟩
    dOut      := some ⟨o.dDatR, o.dAck⟩
    indicator := o.indicator }

end Sys2Proof.Machine
end

