-- ==== Sys2Proof/Safety.lean ====
section
/-! DEFINITION. The terms claims use: the invariant of the state, what a run is and what is observed along it, and what
an operation leaves alone. -/

namespace Sys2Proof.Machine

open Sys2Proof

/-- What every state of a constructed fabric satisfies: legal depths (R7), both stores in canonical form and inside their
depth (R20), no kind recorded twice (R29: a set). -/
structure State.Inv (s : State) : Prop where
  idepth_valid : validDepth s.params.idepth = true
  ddepth_valid : validDepth s.params.ddepth = true
  is_wf        : s.is.wf = true
  ds_wf        : s.ds.wf = true
  is_within    : s.is.within s.params.idepth = true
  ds_within    : s.ds.within s.params.ddepth = true
  faults_nodup : s.faults.Nodup

/-- R164: the master has kept its contract so far. -/
def State.contractKept (s : State) : Prop := Fault.strayWrite ∉ s.faults

/-- R154: the state after `n` cycles. -/
def run (n : Nat) (s : State) : Host.Outcome State Fault Refusal := Host.Core.run Sys2Proof.core n s

/-- The input record of the cycle `k` cycles from now: the listed one, else the master's free one. -/
def State.inputAt (s : State) (k : Nat) : Input :=
  match s.script[k]? with
  | some x => x
  | none => Config.masterInput (s.cycle + k)

/-- What the instruction segment drives over the next `n` cycles. -/
def iTrace : Nat → State → List (Option SegOut)
  | 0, _ => []
  | n + 1, s =>
    match step s with
    | .next t => t.iOut :: iTrace n t
    | _ => []

/-- What the data segment drives over the next `n` cycles. -/
def dTrace : Nat → State → List (Option SegOut)
  | 0, _ => []
  | n + 1, s =>
    match step s with
    | .next t => t.dOut :: dTrace n t
    | _ => []

/-- Every element the instruction segment does not touch is as before: the parameters, both stores byte by byte, `OUT`, `ACK_D`,
`FAULTS`, and the model's own fields but for `iOut`. -/
def sameButInstrSide (s t : State) : Prop :=
  t.params = s.params ∧ (∀ a, t.is.read a = s.is.read a) ∧ (∀ a, t.ds.read a = s.ds.read a) ∧ t.out = s.out ∧
  t.ackD = s.ackD ∧ t.faults = s.faults ∧ t.cycle = s.cycle ∧ t.script = s.script ∧ t.dOut = s.dOut ∧
  t.indicator = s.indicator

/-- Every element that no data-segment operation touches is as before: the parameters, the instruction store byte by byte, `ACK_I`,
and the model's own fields but for `dOut`. -/
def sameOutsideDataSide (s t : State) : Prop :=
  t.params = s.params ∧ (∀ a, t.is.read a = s.is.read a) ∧ t.ackI = s.ackI ∧ t.cycle = s.cycle ∧ t.script = s.script ∧
  t.iOut = s.iOut ∧ t.indicator = s.indicator

/-- The data store byte by byte as before. -/
def sameDs (s t : State) : Prop := ∀ a, t.ds.read a = s.ds.read a

/-- The byte addresses of the data-store word that the data address `a` reaches: `4*widx` to `4*widx + 3` (R42, R48). -/
def State.inDsWord (s : State) (a : Addr) (byte : Nat) : Prop :=
  4 * widx a s.params.ddepth ≤ byte ∧ byte < 4 * widx a s.params.ddepth + 4

/-- What the instruction segment sees of a state (R54: it reads `IS` and `ACK_I`), with the record of what it drove. -/
def sameInstrView (s t : State) : Prop :=
  s.params.idepth = t.params.idepth ∧ s.is = t.is ∧ s.ackI = t.ackI ∧ s.iOut = t.iOut

/-- What the data segment sees and changes (R54: `DS`, `OUT`, `ACK_D`), with `FAULTS`, the cycle number that its free values
depend on, and the record of what it drove. -/
def sameDataView (s t : State) : Prop :=
  s.params.ddepth = t.params.ddepth ∧ s.ds = t.ds ∧ s.out = t.out ∧ s.ackD = t.ackD ∧ s.faults = t.faults ∧
  s.cycle = t.cycle ∧ s.dOut = t.dOut

/-- The instruction segment's inputs agree (R60). -/
def sameInstrInput (x y : Input) : Prop := x.iAdr = y.iAdr ∧ x.iCyc = y.iCyc

/-- The data segment's inputs agree (R61). -/
def sameDataInput (x y : Input) : Prop :=
  x.dAdr = y.dAdr ∧ x.dCyc = y.dCyc ∧ x.dWe = y.dWe ∧ x.dDatW = y.dDatW ∧ x.dSel = y.dSel

/-- R49: both addresses with their lane bits `[1:0]` cleared. -/
def clearLaneBits (x : Input) : Input :=
  { x with iAdr := x.iAdr &&& 0xFFFFFFFC, dAdr := x.dAdr &&& 0xFFFFFFFC }

/-- A mask expanded over the lanes it selects (R93's `M`). -/
def maskWord (m : Mask) : Word :=
  ofLanes (if m.getLsbD 0 then 0xFF else 0) (if m.getLsbD 1 then 0xFF else 0) (if m.getLsbD 2 then 0xFF else 0)
    (if m.getLsbD 3 then 0xFF else 0)

end Sys2Proof.Machine
end

