-- ==== Sys2Proof/Certificates/Slice0/Obligations.lean ====
section
/-! DEFINITION. The statements for the provers. Each docstring names the rules it formalises; where a clause rests on a choice of the
model or of the spec's own decisions it says so. -/

open Sys2Proof Sys2Proof.Machine

/-! ## Encoding and decoding -/

/-- R67, R68, R72 (the frame is the model's, notes/assumptions/1.md): no bit of an operation is lost in its nine bytes. -/
def Obligations.DecodeOfEncodeIsIdentity : Prop :=
  ∀ (i : Instr) (rest : List Byte), i.wf = true → decode (encode i ++ rest) = .ok (i, rest)

/-- The converse: what decodes is well-formed and encodes to the bytes it came from, but for the key bit `K[4]` of an
instruction-segment operation, which R69 masks out and the encoder writes as 0 (notes/assumptions/1.md). -/
def Obligations.DecodedBytesEncodeBack : Prop :=
  ∀ (bytes : List Byte) (i : Instr) (rest : List Byte), decode bytes = .ok (i, rest) →
    i.wf = true ∧ (i.row.seg = true → encode i ++ rest = bytes) ∧
    (i.row.seg = false → ∃ (b : Byte) (tail : List Byte), bytes = b :: tail ∧ encode i ++ rest = (b &&& 0xEF) :: tail)

/-- R67 (D10): the two operations of a cycle are well-formed, have the keys of the input record, and carry every signal value. -/
def Obligations.CycleOperationsKeepEverySignal : Prop :=
  ∀ x : Input, (iInstr x).wf = true ∧ (dInstr x).wf = true ∧ (iInstr x).key = x.iKey ∧ (dInstr x).key = x.dKey ∧
    (iInstr x).row.seg = false ∧ (dInstr x).row.seg = true ∧
    (iInstr x).operands.adr = x.iAdr ∧ (iInstr x).row.cyc = x.iCyc ∧
    (dInstr x).operands = ⟨x.dAdr, x.dDatW, x.dSel⟩ ∧ (dInstr x).row.cyc = x.dCyc ∧ (dInstr x).row.we = x.dWe

/-- R69 (derived there, D10): every one of the 128 keys matches exactly one row of the opcode table, the row `decodeKey` answers. -/
def Obligations.OperationMapIsAPartition : Prop :=
  ∀ k : Key, (opTable.filter (·.applies k)).map OpRow.row = [decodeKey k]

/-- R68: table words of each family, written out from the map, decode to their operations (the address bits below the selector are
the frame's zeros). -/
def Obligations.TableWordsDecode : Prop :=
  decodeTableWord 8 0x00 = some (.iIdle 0x00000000) ∧ decodeTableWord 8 0x2F = some (.iRead 0xF0000000) ∧
  decodeTableWord 8 0x42 = some (.dIdle ⟨0x20000000, 0, 0⟩) ∧ decodeTableWord 8 0x61 = some (.dReadDs ⟨0x10000000, 0, 0⟩) ∧
  decodeTableWord 8 0x67 = some (.dReadUnm4to7 ⟨0x70000000, 0, 0⟩) ∧
  decodeTableWord 8 0x72 = some (.dWriteOut ⟨0x20000000, 0, 0⟩) ∧
  decodeTableWord 8 0x5F = some (.dStrayUnm8toF ⟨0xF0000000, 0, 0⟩) ∧ decodeTableWord 8 0xE1 = none

/-! ## The address, the mask and the merge -/

/-- R42: the word index, as quotient and remainder, as an address field for a power of two, 0 for depth 1, and never a matter of
the selector bits. -/
def Obligations.WordIndexIsAnAddressField : Prop :=
  (∀ (a : Addr) (d : Nat), widx a d = a.toNat / 4 % d) ∧
  (∀ (a : Addr) (k : Nat), 1 ≤ k → k ≤ 26 → widx a (2 ^ k) = (a.extractLsb' 2 k).toNat) ∧
  (∀ a : Addr, widx a 1 = 0) ∧
  (∀ (a b : Addr) (k : Nat), k ≤ 26 → offset a = offset b → widx a (2 ^ k) = widx b (2 ^ k))

/-- R98 (derived there): storage indices wrap, with 32-bit address wrap. -/
def Obligations.StorageIndicesWrap : Prop :=
  ∀ (a : Addr) (d j : Nat), validDepth d = true → widx (a + BitVec.ofNat 32 (4 * d * j)) d = widx a d

/-- R80, R81: the destination by the number in bits 31..28, and by nothing else. -/
def Obligations.DestinationDependsOnSelectorOnly : Prop :=
  (∀ a : Addr, destOf a = if a.toNat / 2 ^ 28 = 1 then Dest.dataStore
    else if a.toNat / 2 ^ 28 = 2 then Dest.outputRegister else Dest.unmapped) ∧
  (∀ a b : Addr, a.extractLsb' 28 4 = b.extractLsb' 28 4 → destOf a = destOf b)

/-- R83: at most one of the two write enables is 1, and none for an unmapped address. -/
def Obligations.WriteEnablesExclude : Prop :=
  ∀ x : Input, ¬ (dsWe x = true ∧ outWe x = true) ∧
    (destOf x.dAdr = .unmapped → dsWe x = false ∧ outWe x = false)

/-- R93, the law: each lane of the merge comes from the written word where its mask bit is set, else from the old word; and the
equivalent formula over whole words. -/
def Obligations.MergeTakesSelectedLanes : Prop :=
  ∀ (old v : Word) (m : Mask),
    (∀ j, j < 32 → (merge old v m).getLsbD j = if m.getLsbD (j / 8) then v.getLsbD j else old.getLsbD j) ∧
    merge old v m = (v &&& maskWord m) ||| (old &&& ~~~ maskWord m)

/-- R93, the consequences (derived there). -/
def Obligations.MergeIdempotentAndComposes : Prop :=
  ∀ (old v v1 v2 : Word) (m m1 m2 : Mask),
    merge old v 0 = old ∧ merge old v 0xF = v ∧ merge (merge old v m) v m = merge old v m ∧
    merge (merge old v1 m1) v2 m2 = merge old (merge v1 v2 m2) (m1 ||| m2)

/-! ## The ports -/

/-- R92: the write port with its enable: one word merged, every other word kept; nothing without the enable. -/
def Obligations.WritePortMergesOneWord : Prop :=
  ∀ (ds : Memory) (en : Bool) (idx k : Nat) (m : Mask) (v : Word), ds.wf = true →
    memRead (memWrite ds en idx m v) k = if en = true ∧ k = idx then merge (memRead ds idx) v m else memRead ds k

/-! ## Results and completion, one statement per operation of the map -/

/-- R120. -/
def Obligations.InstrIdleDrivesAndClearsAck : Prop :=
  ∀ (a : Addr) (s : State), ∃ t, exec (.iIdle a) s = .next t ∧
    t.iOut = some ⟨memRead s.is (widx a s.params.idepth), s.ackI⟩ ∧ t.ackI = false

/-- R121. -/
def Obligations.InstrReadDrivesAndSetsAck : Prop :=
  ∀ (a : Addr) (s : State), ∃ t, exec (.iRead a) s = .next t ∧
    t.iOut = some ⟨memRead s.is (widx a s.params.idepth), s.ackI⟩ ∧ t.ackI = true

/-- R122, with R116's choice of the word; at selector 0x2 the word is the free value of D5 (notes/assumptions/5.md). -/
def Obligations.DataIdleDrivesAndClearsAck : Prop :=
  ∀ (o : DOperands) (s : State), ∃ t, exec (.dIdle o) s = .next t ∧
    (destOf o.adr = .dataStore → t.dOut = some ⟨memRead s.ds (widx o.adr s.params.ddepth), s.ackD⟩) ∧
    (destOf o.adr = .unmapped → t.dOut = some ⟨0x00000000, s.ackD⟩) ∧
    (destOf o.adr = .outputRegister → t.dOut = some ⟨Config.rOut s.cycle, s.ackD⟩) ∧ t.ackD = false

/-- R123. -/
def Obligations.DataStoreReadResult : Prop :=
  ∀ (o : DOperands) (s : State), ∃ t, exec (.dReadDs o) s = .next t ∧
    t.dOut = some ⟨memRead s.ds (widx o.adr s.params.ddepth), s.ackD⟩ ∧ t.ackD = true

/-- R124; the word is the free value of D5, not `OUT` (notes/assumptions/5.md). -/
def Obligations.OutputRegisterReadResult : Prop :=
  ∀ (o : DOperands) (s : State), ∃ t, exec (.dReadOut o) s = .next t ∧
    t.dOut = some ⟨Config.rOut s.cycle, s.ackD⟩ ∧ t.ackD = true

/-- R125, its four rows. -/
def Obligations.UnmappedReadResult : Prop :=
  ∀ (o : DOperands) (s : State) (i : Instr),
    i ∈ [Instr.dReadUnm0 o, .dReadUnm3 o, .dReadUnm4to7 o, .dReadUnm8toF o] →
    ∃ t, exec i s = .next t ∧ t.dOut = some ⟨0x00000000, s.ackD⟩ ∧ t.ackD = true

/-- R126. -/
def Obligations.DataStoreWriteResult : Prop :=
  ∀ (o : DOperands) (s : State), s.ds.wf = true → ∃ t, exec (.dWriteDs o) s = .next t ∧
    t.dOut = some ⟨memRead s.ds (widx o.adr s.params.ddepth), s.ackD⟩ ∧
    memRead t.ds (widx o.adr s.params.ddepth) = merge (memRead s.ds (widx o.adr s.params.ddepth)) o.datW o.sel ∧
    t.ackD = true

/-- R127; the word on `d_dat_r` is the free value of D5 (notes/assumptions/5.md). -/
def Obligations.OutputRegisterWriteResult : Prop :=
  ∀ (o : DOperands) (s : State), ∃ t, exec (.dWriteOut o) s = .next t ∧
    t.dOut = some ⟨Config.rOut s.cycle, s.ackD⟩ ∧ t.out = o.datW ∧ t.ackD = true

/-- R128, its four rows. -/
def Obligations.UnmappedWriteResult : Prop :=
  ∀ (o : DOperands) (s : State) (i : Instr),
    i ∈ [Instr.dWriteUnm0 o, .dWriteUnm3 o, .dWriteUnm4to7 o, .dWriteUnm8toF o] →
    ∃ t, exec i s = .next t ∧ t.dOut = some ⟨0x00000000, s.ackD⟩ ∧ t.ds = s.ds ∧ t.out = s.out ∧ t.ackD = true

/-- R129 (D6, notes/assumptions/6.md): the fault is recorded, no ack follows, and the write happens or not, as the free value says. -/
def Obligations.StrayDataStoreWriteResult : Prop :=
  ∀ (o : DOperands) (s : State), s.ds.wf = true → ∃ t, exec (.dStrayDs o) s = .next t ∧
    t.dOut = some ⟨memRead s.ds (widx o.adr s.params.ddepth), s.ackD⟩ ∧ Fault.strayWrite ∈ t.faults ∧ t.ackD = false ∧
    ((Config.strayTakes s.cycle = true ∧ memRead t.ds (widx o.adr s.params.ddepth) =
        merge (memRead s.ds (widx o.adr s.params.ddepth)) o.datW o.sel) ∨
     (Config.strayTakes s.cycle = false ∧ t.ds = s.ds))

/-- R130 (D6, D5; notes/assumptions/5.md and 6.md). -/
def Obligations.StrayOutputRegisterWriteResult : Prop :=
  ∀ (o : DOperands) (s : State), ∃ t, exec (.dStrayOut o) s = .next t ∧
    t.dOut = some ⟨Config.rOut s.cycle, s.ackD⟩ ∧ Fault.strayWrite ∈ t.faults ∧ t.ackD = false ∧
    ((Config.strayTakes s.cycle = true ∧ t.out = o.datW) ∨ (Config.strayTakes s.cycle = false ∧ t.out = s.out))

/-- R131 (D6), its four rows. -/
def Obligations.StrayUnmappedWriteResult : Prop :=
  ∀ (o : DOperands) (s : State) (i : Instr),
    i ∈ [Instr.dStrayUnm0 o, .dStrayUnm3 o, .dStrayUnm4to7 o, .dStrayUnm8toF o] →
    ∃ t, exec i s = .next t ∧ t.dOut = some ⟨0x00000000, s.ackD⟩ ∧ Fault.strayWrite ∈ t.faults ∧ t.ds = s.ds ∧
      t.out = s.out ∧ t.ackD = false

/-! ## Frames -/

/-- R52, R54: I_IDLE and I_READ change `ACK_I` and the record of what the segment drove, and nothing else. -/
def Obligations.InstrSegmentFrame : Prop :=
  ∀ (a : Addr) (s t : State) (i : Instr), i ∈ [Instr.iIdle a, .iRead a] → exec i s = .next t → sameButInstrSide s t

/-- R52, R101, R114: the idle cycle, the reads and the unmapped writes store nothing, leave `OUT` and record no fault. -/
def Obligations.NonStoringDataOperationsFrame : Prop :=
  ∀ (o : DOperands) (s t : State) (i : Instr),
    i ∈ [Instr.dIdle o, .dReadDs o, .dReadOut o, .dReadUnm0 o, .dReadUnm3 o, .dReadUnm4to7 o, .dReadUnm8toF o,
      .dWriteUnm0 o, .dWriteUnm3 o, .dWriteUnm4to7 o, .dWriteUnm8toF o] →
    exec i s = .next t → sameOutsideDataSide s t ∧ sameDs s t ∧ t.out = s.out ∧ t.faults = s.faults

/-- R92, R52: D_WRITE_DS changes the selected lanes of the addressed word and no other byte, and neither `OUT` nor `FAULTS`. -/
def Obligations.DataStoreWriteFrame : Prop :=
  ∀ (o : DOperands) (s t : State), s.ds.wf = true → exec (.dWriteDs o) s = .next t →
    sameOutsideDataSide s t ∧ t.out = s.out ∧ t.faults = s.faults ∧
    (∀ byte, ¬ s.inDsWord o.adr byte → t.ds.read byte = s.ds.read byte) ∧
    (∀ byte, s.inDsWord o.adr byte → o.sel.getLsbD (byte % 4) = false → t.ds.read byte = s.ds.read byte)

/-- R101, R52: D_WRITE_OUT changes `OUT` and no byte of a store, and records no fault. -/
def Obligations.OutputRegisterWriteFrame : Prop :=
  ∀ (o : DOperands) (s t : State), exec (.dWriteOut o) s = .next t →
    sameOutsideDataSide s t ∧ sameDs s t ∧ t.faults = s.faults

/-- R129-R131 (D6): whichever way the race goes, a stray cycle changes at most what its canonical gating would write, and adds
no kind but `StrayWrite` to `FAULTS`. -/
def Obligations.StrayWriteFrame : Prop :=
  ∀ (o : DOperands) (s t : State) (i : Instr),
    i ∈ [Instr.dStrayDs o, .dStrayOut o, .dStrayUnm0 o, .dStrayUnm3 o, .dStrayUnm4to7 o, .dStrayUnm8toF o] →
    s.ds.wf = true → exec i s = .next t →
    sameOutsideDataSide s t ∧ (∀ f, f ∈ t.faults ↔ f = .strayWrite ∨ f ∈ s.faults) ∧
    (i ≠ .dStrayOut o → t.out = s.out) ∧ (i ≠ .dStrayDs o → sameDs s t) ∧
    (∀ byte, ¬ s.inDsWord o.adr byte → t.ds.read byte = s.ds.read byte) ∧
    (∀ byte, s.inDsWord o.adr byte → o.sel.getLsbD (byte % 4) = false → t.ds.read byte = s.ds.read byte)

/-! ## The cycle -/

/-- R67, R110 (notes/assumptions/3.md): a step performs exactly the two operations of the current input record, on the state with
the cycle's indicator shown, and then time passes. -/
def Obligations.StepRunsDecodedOperations : Prop :=
  ∀ (s : State) (i d : Instr), iInstr s.currentInput = i → dInstr s.currentInput = d →
    step s = andThen (andThen (exec i s.beginCycle) (exec d)) (fun t => .next t.endCycle)

/-- notes/assumptions/3.md: the word of a well-formed operation, placed where the next cycle's request stands, is the operation the
next step runs; the other segment is idle at address 0 (R72). -/
def Obligations.PlacedWordRunsItsOperation : Prop :=
  ∀ (s : State) (i : Instr), i.wf = true →
    let s' : State := { s with script := i.toInput :: s.script }
    step (s.withFetchWord 72 (encodeFrame i).toNat) =
      if i.row.seg then andThen (andThen (exec (.iIdle 0) s'.beginCycle) (exec i)) (fun t => .next t.endCycle)
      else andThen (andThen (exec i s'.beginCycle) (exec (.dIdle ⟨0, 0, 0⟩))) (fun t => .next t.endCycle)

/-- R151: a step is the whole-fabric function of the state, the input record and the two draws. -/
def Obligations.StepIsTheCycleFunction : Prop :=
  ∀ s : State, step s = .next (cycleNext s s.currentInput (Config.rOut s.cycle) (Config.strayTakes s.cycle))

/-- R154, R160: `step` is defined for every state: no step ends in a fault or a refusal, for any input the master drives. -/
def Obligations.EveryCycleCompletes : Prop :=
  ∀ (n : Nat) (s : State), ∃ t, run n s = .next t ∧ t.cycle = s.cycle + n

/-- R110, R54: the two operations of a cycle commute, in every state. -/
def Obligations.SegmentOperationsCommute : Prop :=
  ∀ (s : State) (i d : Instr), i.row.seg = false → d.row.seg = true →
    andThen (exec i s) (exec d) = andThen (exec d s) (exec i)

/-- R153 (derived there): the draws matter only in a stray cycle and at selector 0x2. -/
def Obligations.DrawsMatterOnlyWhereOpen : Prop :=
  ∀ (s : State) (x : Input) (r r' : Word) (b b' : Bool),
    (isStray x = false → destOf x.dAdr ≠ .outputRegister → cycleNext s x r b = cycleNext s x r' b') ∧
    (isStray x = false → { cycleNext s x r b with dOut := none } = { cycleNext s x r' b' with dOut := none }) ∧
    (destOf x.dAdr ≠ .outputRegister → cycleOutputs s x r = cycleOutputs s x r')

/-- R49 (D7): the lane bits `adr[1:0]` of both segments are ignored. -/
def Obligations.LaneBitsOfAddressIgnored : Prop :=
  ∀ (s : State) (x : Input) (rest : List Input),
    step { s with script := x :: rest } = step { s with script := clearLaneBits x :: rest }

/-! ## Reset, construction and the invariant -/

/-- R32, R184 for the reference depths and an empty image (the model's choice, notes/assumptions/9.md; the ack bits are D3,
notes/assumptions/10.md): reset is the constructed state, all zero, with no fault recorded and the indicator low. -/
def Obligations.ResetIsTheConstructedState : Prop :=
  construct ⟨Params.reference, []⟩ = .next State.reset ∧ (∀ k, memRead State.reset.is k = 0 ∧ memRead State.reset.ds k = 0) ∧
  State.reset.out = 0 ∧ State.reset.ackI = false ∧ State.reset.ackD = false ∧ State.reset.faults = [] ∧
  State.reset.indicatorNow = some false

/-- The invariant holds after reset. -/
def Obligations.ResetSatisfiesInv : Prop := State.reset.Inv

/-- The invariant holds after every construction that succeeds (R180). -/
def Obligations.ConstructionEstablishesInv : Prop := ∀ (c : Config) (s : State), construct c = .next s → s.Inv

/-- Every cycle keeps the invariant, from every state that has it: the stores stay canonical and inside their depths, the depths stay
legal, no kind is recorded twice. -/
def Obligations.EveryCycleKeepsInv : Prop := ∀ s t : State, s.Inv → step s = .next t → t.Inv

/-- R180 (D8): when construction fails, and with which failure; of two bad depths the instruction store's is reported (the model's
choice, notes/assumptions/12.md). -/
def Obligations.ConstructionChecksInOrder : Prop :=
  ∀ c : Config,
    (∀ d, validDepth d = true ↔ (∃ k, d = 2 ^ k) ∧ 1 ≤ d ∧ d ≤ 2 ^ 26) ∧
    (validDepth c.params.idepth = false → construct c = .refused (.badDepth c.params.idepth)) ∧
    (validDepth c.params.idepth = true → validDepth c.params.ddepth = false →
      construct c = .refused (.badDepth c.params.ddepth)) ∧
    (validDepth c.params.idepth = true → validDepth c.params.ddepth = true → c.params.idepth < c.image.length →
      construct c = .refused (.imageTooLong c.image.length c.params.idepth)) ∧
    (validDepth c.params.idepth = true → validDepth c.params.ddepth = true → c.image.length ≤ c.params.idepth →
      ∃ s, construct c = .next s)

/-- R32 (R23, R24, R25; the ack bits are D3): the constructed state holds the zero-padded image, and zero elsewhere. -/
def Obligations.ConstructedStateHoldsPaddedImage : Prop :=
  ∀ (c : Config) (s : State), construct c = .next s →
    s.params = c.params ∧ (∀ k, memRead s.is k = c.image.getD k 0) ∧ (∀ k, memRead s.ds k = 0) ∧ s.out = 0 ∧
    s.ackI = false ∧ s.ackD = false ∧ s.faults = []

/-- R182 (D9): the loader refuses a stream that is no whole number of words, and lays byte `4k + i` into lane `i` of word `k`. -/
def Obligations.LoaderGroupsLittleEndian : Prop :=
  ∀ bytes : List Byte,
    (bytes.length % 4 ≠ 0 → loadImage bytes = .error (.imageNotWordMultiple bytes.length)) ∧
    (bytes.length % 4 = 0 → ∃ ws, loadImage bytes = .ok ws ∧ ws.length = bytes.length / 4 ∧
      ∀ k, k < ws.length → ∀ i, i < 4 → (ws[k]?).map (lane · i) = bytes[4 * k + i]?)

/-- R48, R182: a stream loaded and constructed stands in the instruction store byte for byte. -/
def Obligations.LoadedBytesReachTheirLanes : Prop :=
  ∀ (bytes : List Byte) (ws : List Word) (p : Params) (s : State), loadImage bytes = .ok ws →
    construct ⟨p, ws⟩ = .next s → ∀ n, s.is.read n = bytes.getD n 0

/-! ## Rules of the whole machine -/

/-- R57, with the combinational read port that C2 makes normative (notes/assumptions/15.md): from construction on, through any
cycles with any inputs, every cycle's instruction-segment read returns the word that construction placed there. -/
def Obligations.FetchReturnsTheConstructionImage : Prop :=
  ∀ (c : Config) (s0 : State) (xs : List Input) (n : Nat) (t u : State), construct c = .next s0 →
    run n { s0 with script := xs } = .next t → step t = .next u →
    t.is = s0.is ∧ u.iOut = some ⟨c.image.getD (widx t.currentInput.iAdr c.params.idepth) 0, t.ackI⟩

/-- R115: `i_dat_r` in every cycle, whether or not `i_cyc` is 1 (combinational, C2; notes/assumptions/15.md). -/
def Obligations.InstrReadDataEveryCycle : Prop :=
  ∀ s t : State, step s = .next t →
    t.iOut.map SegOut.datR = some (memRead s.is (widx s.currentInput.iAdr s.params.idepth))

/-- R116 (the OUTPUT_REGISTER arm is D5, notes/assumptions/5.md): `d_dat_r` in every cycle, whatever `d_cyc` and `d_we` are. -/
def Obligations.DataReadDataEveryCycle : Prop :=
  ∀ s t : State, step s = .next t →
    t.dOut.map SegOut.datR = some (match destOf s.currentInput.dAdr with
      | .dataStore => memRead s.ds (widx s.currentInput.dAdr s.params.ddepth)
      | .unmapped => 0x00000000
      | .outputRegister => Config.rOut s.cycle)

/-- R141, R142: each segment's ack machine: the output is the pending bit, the next pending bit is that segment's `cyc`,
whatever else is driven. -/
def Obligations.AckMachinePerSegment : Prop :=
  ∀ s t : State, step s = .next t →
    t.iOut.map SegOut.ack = some s.ackI ∧ t.ackI = s.currentInput.iCyc ∧
    t.dOut.map SegOut.ack = some s.ackD ∧ t.ackD = s.currentInput.dCyc

/-- R140, R143 (derived there): over any number of cycles the acks are the requests one cycle later, and on the data
segment, from no ack pending, their numbers agree (the instruction segment has the same latch, and the first clause). -/
def Obligations.AcksAreRequestsOneCycleLater : Prop :=
  ∀ (n : Nat) (s : State),
    (iTrace n s).map (Option.map SegOut.ack) =
      ((s.ackI :: (List.range n).map fun k => (s.inputAt k).iCyc).take n).map some ∧
    (dTrace n s).map (Option.map SegOut.ack) =
      ((s.ackD :: (List.range n).map fun k => (s.inputAt k).dCyc).take n).map some ∧
    (s.ackD = false → (dTrace (n + 1) s).countP (fun o => o.any SegOut.ack) =
      (List.range n).countP fun k => (s.inputAt k).dCyc)

/-- R112: outside a stray cycle (C4), the data store's write port is enabled by destination and `d_we` alone. -/
def Obligations.DataStoreWriteGating : Prop :=
  ∀ s t : State, s.ds.wf = true → isStray s.currentInput = false → step s = .next t → ∀ k,
    memRead t.ds k =
      if destOf s.currentInput.dAdr = .dataStore ∧ s.currentInput.dWe = true ∧ k = widx s.currentInput.dAdr s.params.ddepth
      then merge (memRead s.ds k) s.currentInput.dDatW s.currentInput.dSel else memRead s.ds k

/-- R101: `OUT` changes only to the full write data of a cycle with `d_we = 1` at selector 0x2; in a cycle within the contract it
does take that value. -/
def Obligations.OutChangesOnlyByItsWrite : Prop :=
  ∀ s t : State, step s = .next t →
    (t.out ≠ s.out → destOf s.currentInput.dAdr = .outputRegister ∧ s.currentInput.dWe = true ∧
      t.out = s.currentInput.dDatW) ∧
    (destOf s.currentInput.dAdr = .outputRegister → s.currentInput.dWe = true → s.currentInput.dCyc = true →
      t.out = s.currentInput.dDatW)

/-- R114: a cycle at an unmapped data address enables neither write, changes neither store nor `OUT`, and reads as zero, whatever is
driven; the ack bits follow their requests. `FAULTS` is no hardware state (R29) and changes in a stray cycle only. -/
def Obligations.UnmappedCycleChangesNoStorage : Prop :=
  ∀ s t : State, step s = .next t → destOf s.currentInput.dAdr = .unmapped →
    dsWe s.currentInput = false ∧ outWe s.currentInput = false ∧
    t.is = s.is ∧ t.ds = s.ds ∧ t.out = s.out ∧ t.params = s.params ∧ t.dOut.map SegOut.datR = some 0 ∧
    t.ackI = s.currentInput.iCyc ∧ t.ackD = s.currentInput.dCyc ∧
    (isStray s.currentInput = false → t.faults = s.faults)

/-- R94: the write port is not transparent: a cycle at a data-store address reads the pre-edge word, also when it writes that word,
and the merged word stands in the next state. The write is enabled in every cycle with `d_we = 1` within the contract, and in a
stray one when the free value says so (R151, R164; the spec's D6, notes/assumptions/6.md). The read is combinational (C2;
notes/assumptions/15.md). -/
def Obligations.WritePortNotTransparent : Prop :=
  ∀ s t : State, s.ds.wf = true → step s = .next t → destOf s.currentInput.dAdr = .dataStore →
    t.dOut.map SegOut.datR = some (memRead s.ds (widx s.currentInput.dAdr s.params.ddepth)) ∧
    (s.currentInput.dWe = true → s.currentInput.dCyc = true ∨ Config.strayTakes s.cycle = true →
      memRead t.ds (widx s.currentInput.dAdr s.params.ddepth) =
        merge (memRead s.ds (widx s.currentInput.dAdr s.params.ddepth)) s.currentInput.dDatW s.currentInput.dSel)

/-- R132 (derived there): a read of the same word in the write's ack cycle already sees the write. -/
def Obligations.NextCycleReadSeesTheWrite : Prop :=
  ∀ s t u : State, s.ds.wf = true → step s = .next t → step t = .next u →
    destOf s.currentInput.dAdr = .dataStore → s.currentInput.dWe = true → s.currentInput.dCyc = true →
    destOf t.currentInput.dAdr = .dataStore →
    widx t.currentInput.dAdr s.params.ddepth = widx s.currentInput.dAdr s.params.ddepth →
    u.dOut = some ⟨merge (memRead s.ds (widx s.currentInput.dAdr s.params.ddepth)) s.currentInput.dDatW
      s.currentInput.dSel, true⟩

/-- R188 (derived there): a read request whose address is held through the ack cycle samples the word of the request cycle. -/
def Obligations.HeldReadSamplesTheRequestedWord : Prop :=
  ∀ s t u : State, step s = .next t → step t = .next u →
    (s.currentInput.iCyc = true → t.currentInput.iAdr = s.currentInput.iAdr →
      u.iOut = some ⟨memRead s.is (widx s.currentInput.iAdr s.params.idepth), true⟩) ∧
    (s.currentInput.dCyc = true → s.currentInput.dWe = false → t.currentInput.dAdr = s.currentInput.dAdr →
      (destOf s.currentInput.dAdr = .dataStore →
        u.dOut = some ⟨memRead s.ds (widx s.currentInput.dAdr s.params.ddepth), true⟩) ∧
      (destOf s.currentInput.dAdr = .unmapped → u.dOut = some ⟨0, true⟩))

/-- R103, R104: the indicator is bit 0 of the pre-edge `OUT`, where the fabric has one; after a write it follows one cycle later. -/
def Obligations.IndicatorFollowsOutOneCycleLater : Prop :=
  ∀ s t u : State, step s = .next t → step t = .next u →
    t.indicator = (if s.params.hasIndicator then some (s.out.getLsbD 0) else none) ∧
    (s.params.hasIndicator = true → destOf s.currentInput.dAdr = .outputRegister → s.currentInput.dWe = true →
      s.currentInput.dCyc = true → u.indicator = some (s.currentInput.dDatW.getLsbD 0))

/-- R52 (derived there): repeating a write within the contract leaves the same stores and the same `OUT`. -/
def Obligations.RepeatedWriteIsIdempotent : Prop :=
  ∀ s t u : State, s.ds.wf = true → step s = .next t → step t = .next u → s.currentInput.dWe = true →
    s.currentInput.dCyc = true → sameDataInput s.currentInput t.currentInput → u.ds = t.ds ∧ u.out = t.out

/-- R164, R29 (D6): after any run, `StrayWrite` is recorded exactly when it was before or a cycle of the run was a stray write;
no kind is ever removed. -/
def Obligations.FaultsRecordStrayCyclesForever : Prop :=
  ∀ (n : Nat) (s t : State), run n s = .next t →
    (t.contractKept ↔ s.contractKept ∧ ∀ k, k < n → isStray (s.inputAt k) = false) ∧ (∀ f, f ∈ s.faults → f ∈ t.faults)

/-- R54, R45: what the instruction segment drives over any run depends on its own view and inputs only: two runs that differ in the
data store, `OUT`, the data segment's ack and everything the data segment is asked to do show the same. -/
def Obligations.InstrSegmentIsIsolated : Prop :=
  ∀ (n : Nat) (s s' t t' : State), sameInstrView s s' →
    (∀ k, k < n → sameInstrInput (s.inputAt k) (s'.inputAt k)) → run n s = .next t → run n s' = .next t' →
    sameInstrView t t' ∧ iTrace n s = iTrace n s'

/-- R54, R45: the same for the data segment: no fetch, no image and no instruction-segment ack reaches it. The two runs start in the
same cycle, so they meet the same free values. -/
def Obligations.DataSegmentIsIsolated : Prop :=
  ∀ (n : Nat) (s s' t t' : State), sameDataView s s' →
    (∀ k, k < n → sameDataInput (s.inputAt k) (s'.inputAt k)) → run n s = .next t → run n s' = .next t' →
    sameDataView t t' ∧ dTrace n s = dTrace n s'
end

