-- ==== Sys2Proof/Laws/Memory.lean ====
section
/-! SUPPORT. The laws of a store: read after write, canonical form, bounds, and that equal contents are equal data. -/

namespace Sys2Proof.Machine

open Sys2Proof

/-! ## Canonical form -/

theorem Memory.wfFrom_cons {lo k : Nat} {v : Byte} {m : Memory} :
    Memory.wfFrom lo ((k, v) :: m) = true ↔ lo ≤ k ∧ v ≠ Memory.unlisted ∧ Memory.wfFrom (k + 1) m = true := by
  simp [Memory.wfFrom, and_assoc]

theorem Memory.wfFrom_mono {lo hi : Nat} {m : Memory} (h : Memory.wfFrom hi m = true) (hle : lo ≤ hi) :
    Memory.wfFrom lo m = true := by
  cases m with
  | nil => rfl
  | cons c m => obtain ⟨k, v⟩ := c; rw [wfFrom_cons] at h ⊢; exact ⟨by omega, h.2⟩

/-- A canonical store lists nothing below its bound. -/
theorem Memory.read_below {m : Memory} : ∀ {lo a : Nat}, Memory.wfFrom lo m = true → a < lo → m.read a = Memory.unlisted := by
  induction m with
  | nil => intros; rfl
  | cons c m ih =>
    obtain ⟨k, v⟩ := c
    intro lo a h ha
    rw [wfFrom_cons] at h
    have hne : k ≠ a := by omega
    simpa [Memory.read, hne] using ih h.2.2 (by omega)

theorem Memory.consCell_wfFrom {lo a : Nat} {b : Byte} {m : Memory} (hlo : lo ≤ a) (h : Memory.wfFrom (a + 1) m = true) :
    Memory.wfFrom lo (Memory.consCell a b m) = true := by
  unfold Memory.consCell
  split
  · exact wfFrom_mono h (by omega)
  · exact wfFrom_cons.mpr ⟨hlo, ‹_›, h⟩

theorem Memory.write_wfFrom {a : Nat} {b : Byte} {m : Memory} :
    ∀ {lo : Nat}, Memory.wfFrom lo m = true → lo ≤ a → Memory.wfFrom lo (m.write a b) = true := by
  induction m with
  | nil => intro lo _ ha; exact consCell_wfFrom ha rfl
  | cons c m ih =>
    obtain ⟨k, v⟩ := c
    intro lo h ha
    have h' := wfFrom_cons.mp h
    unfold Memory.write
    split
    · exact consCell_wfFrom ha (wfFrom_cons.mpr ⟨by omega, h'.2⟩)
    · split
      · subst a; exact consCell_wfFrom ha h'.2.2
      · exact wfFrom_cons.mpr ⟨h'.1, h'.2.1, ih h'.2.2 (by omega)⟩

/-- Writing a byte keeps the canonical form. -/
theorem Memory.write_wf {m : Memory} {a : Nat} {b : Byte} (h : m.wf = true) : (m.write a b).wf = true :=
  write_wfFrom h (Nat.zero_le a)

/-! ## Read after write -/

theorem Memory.read_consCell_other {m : Memory} {a x : Nat} {b : Byte} (h : x ≠ a) :
    (Memory.consCell a b m).read x = m.read x := by
  unfold Memory.consCell
  split
  · rfl
  · simp [Memory.read, Ne.symm h]

/-- A write leaves every other byte alone, in every store. -/
theorem Memory.read_write_other {m : Memory} {a x : Nat} {b : Byte} (h : x ≠ a) : (m.write a b).read x = m.read x := by
  induction m with
  | nil => exact read_consCell_other h
  | cons c m ih =>
    obtain ⟨k, v⟩ := c
    unfold Memory.write
    split
    · exact read_consCell_other h
    · split
      · subst a; rw [read_consCell_other h]; simp [Memory.read, Ne.symm h]
      · simp [Memory.read, ih]

theorem Memory.read_consCell_same {m : Memory} {a : Nat} {b : Byte} (h : m.read a = Memory.unlisted) :
    (Memory.consCell a b m).read a = b := by
  unfold Memory.consCell
  split
  · simp [*]
  · simp [Memory.read]

theorem Memory.read_write_same_from {m : Memory} {a : Nat} {b : Byte} :
    ∀ {lo : Nat}, Memory.wfFrom lo m = true → (m.write a b).read a = b := by
  induction m with
  | nil => intros; exact read_consCell_same rfl
  | cons c m ih =>
    obtain ⟨k, v⟩ := c
    intro lo h
    have h' := wfFrom_cons.mp h
    unfold Memory.write
    split
    · exact read_consCell_same (read_below (wfFrom_cons.mpr ⟨Nat.le_refl k, h'.2⟩) ‹_›)
    · split
      · subst a; exact read_consCell_same (read_below h'.2.2 (Nat.lt_succ_self k))
      · rename_i _ hne
        simpa [Memory.read, Ne.symm hne] using ih h'.2.2

/-- A byte reads as it was last written. -/
theorem Memory.read_write_same {m : Memory} {a : Nat} {b : Byte} (h : m.wf = true) : (m.write a b).read a = b :=
  read_write_same_from h

/-! ## Equal contents are equal data -/

theorem Memory.ext_from {m : Memory} : ∀ {n : Memory} {lo : Nat}, Memory.wfFrom lo m = true → Memory.wfFrom lo n = true →
    (∀ a, m.read a = n.read a) → m = n := by
  induction m with
  | nil =>
    intro n lo _ hn heq
    cases n with
    | nil => rfl
    | cons d n =>
      obtain ⟨j, w⟩ := d
      exact absurd (by simpa [Memory.read] using (heq j).symm) (wfFrom_cons.mp hn).2.1
  | cons c m ih =>
    obtain ⟨k, v⟩ := c
    intro n lo hm hn heq
    have hm' := wfFrom_cons.mp hm
    cases n with
    | nil => exact absurd (by simpa [Memory.read] using heq k) hm'.2.1
    | cons d n =>
      obtain ⟨j, w⟩ := d
      have hn' := wfFrom_cons.mp hn
      have hjk : j = k := by
        rcases Nat.lt_trichotomy j k with hlt | rfl | hgt
        · have := heq j
          rw [read_below (wfFrom_cons.mpr ⟨Nat.le_refl k, hm'.2⟩) hlt] at this
          exact absurd (by simpa [Memory.read] using this.symm) hn'.2.1
        · rfl
        · have := heq k
          rw [read_below (wfFrom_cons.mpr ⟨Nat.le_refl j, hn'.2⟩) hgt] at this
          exact absurd (by simpa [Memory.read] using this) hm'.2.1
      subst hjk
      have hvw : v = w := by simpa [Memory.read] using heq j
      subst hvw
      rw [ih hm'.2.2 hn'.2.2 fun a => ?_]
      by_cases ha : j = a
      · subst ha; rw [read_below hm'.2.2 (Nat.lt_succ_self j), read_below hn'.2.2 (Nat.lt_succ_self j)]
      · simpa [Memory.read, ha] using heq a

/-- Two canonical stores with the same bytes are the same data. -/
theorem Memory.ext {m n : Memory} (hm : m.wf = true) (hn : n.wf = true) (h : ∀ a, m.read a = n.read a) : m = n :=
  ext_from hm hn h

/-! ## Bounds -/

theorem Memory.consCell_within {d a : Nat} {b : Byte} {m : Memory} (h : m.within d = true) (ha : a < 4 * d) :
    (Memory.consCell a b m).within d = true := by
  unfold Memory.consCell
  split
  · exact h
  · simpa [Memory.within, ha] using h

theorem Memory.write_within {d a : Nat} {b : Byte} {m : Memory} (h : m.within d = true) (ha : a < 4 * d) :
    (m.write a b).within d = true := by
  induction m with
  | nil => exact consCell_within rfl ha
  | cons c m ih =>
    obtain ⟨k, v⟩ := c
    have h' : k < 4 * d ∧ Memory.within d m = true := by simpa [Memory.within] using h
    unfold Memory.write
    split
    · exact consCell_within h ha
    · split
      · exact consCell_within h'.2 ha
      · have := ih h'.2
        simpa [Memory.within, h'.1] using this

/-! ## Words and lanes -/

/-! ## Words and lanes -/

theorem lane_getLsbD (w : Word) (i j : Nat) : (lane w i).getLsbD j = (decide (j < 8) && w.getLsbD (8 * i + j)) := by
  simp [lane, BitVec.getLsbD_extractLsb']

theorem ofLanes_getLsbD (b0 b1 b2 b3 : Byte) (j : Nat) : (ofLanes b0 b1 b2 b3).getLsbD j =
    if j < 8 then b0.getLsbD j else if j < 16 then b1.getLsbD (j - 8) else if j < 24 then b2.getLsbD (j - 16)
    else b3.getLsbD (j - 24) := by
  simp only [ofLanes, BitVec.getLsbD_append]
  repeat' split <;> try omega
  all_goals rfl

@[simp] theorem lane_ofLanes_zero (b0 b1 b2 b3 : Byte) : lane (ofLanes b0 b1 b2 b3) 0 = b0 := by
  refine BitVec.eq_of_getLsbD_eq fun j hj => ?_
  rw [lane_getLsbD, ofLanes_getLsbD]; simp [hj]

@[simp] theorem lane_ofLanes_one (b0 b1 b2 b3 : Byte) : lane (ofLanes b0 b1 b2 b3) 1 = b1 := by
  refine BitVec.eq_of_getLsbD_eq fun j hj => ?_
  rw [lane_getLsbD, ofLanes_getLsbD]; simp [hj, show 8 + j < 16 by omega]

@[simp] theorem lane_ofLanes_two (b0 b1 b2 b3 : Byte) : lane (ofLanes b0 b1 b2 b3) 2 = b2 := by
  refine BitVec.eq_of_getLsbD_eq fun j hj => ?_
  rw [lane_getLsbD, ofLanes_getLsbD]
  simp [hj, show ¬ 16 + j < 8 by omega, show ¬ 16 + j < 16 by omega, show 16 + j < 24 by omega]

@[simp] theorem lane_ofLanes_three (b0 b1 b2 b3 : Byte) : lane (ofLanes b0 b1 b2 b3) 3 = b3 := by
  refine BitVec.eq_of_getLsbD_eq fun j hj => ?_
  rw [lane_getLsbD, ofLanes_getLsbD]
  simp [hj, show ¬ 24 + j < 8 by omega, show ¬ 24 + j < 16 by omega, show ¬ 24 + j < 24 by omega]

/-- A word is its lanes. -/
@[simp] theorem ofLanes_lane (w : Word) : ofLanes (lane w 0) (lane w 1) (lane w 2) (lane w 3) = w := by
  refine BitVec.eq_of_getLsbD_eq fun j hj => ?_
  simp only [lane_getLsbD, ofLanes_getLsbD]
  repeat' split
  all_goals (rw [decide_eq_true (by omega), Bool.true_and]; congr 1; omega)

theorem lane_of_memRead (m : Memory) (idx : Nat) :
    lane (memRead m idx) 0 = m.read (4 * idx) ∧ lane (memRead m idx) 1 = m.read (4 * idx + 1) ∧
    lane (memRead m idx) 2 = m.read (4 * idx + 2) ∧ lane (memRead m idx) 3 = m.read (4 * idx + 3) := by
  simp [memRead]

/-- An empty store reads as zero. -/
@[simp] theorem memRead_nil (idx : Nat) : memRead [] idx = 0 := by
  simp only [memRead, Memory.read]; decide

/-! ## The ports -/

theorem putWord_wf {m : Memory} {idx : Nat} {w : Word} (h : m.wf = true) : (putWord m idx w).wf = true :=
  Memory.write_wf (Memory.write_wf (Memory.write_wf (Memory.write_wf h)))

theorem putWord_within {m : Memory} {d idx : Nat} {w : Word} (h : m.within d = true) (hi : idx < d) :
    (putWord m idx w).within d = true :=
  Memory.write_within (Memory.write_within (Memory.write_within (Memory.write_within h (by omega)) (by omega)) (by omega))
    (by omega)

/-- A word write leaves every byte outside the word alone, in every store. -/
theorem read_putWord_outside {m : Memory} {idx a : Nat} {w : Word} (h : a < 4 * idx ∨ 4 * idx + 4 ≤ a) :
    (putWord m idx w).read a = m.read a := by
  unfold putWord
  rw [Memory.read_write_other (by omega), Memory.read_write_other (by omega), Memory.read_write_other (by omega),
    Memory.read_write_other (by omega)]

/-- The four bytes of a written word. -/
theorem read_putWord_inside {m : Memory} (idx : Nat) (w : Word) (h : m.wf = true) :
    (putWord m idx w).read (4 * idx) = lane w 0 ∧ (putWord m idx w).read (4 * idx + 1) = lane w 1 ∧
    (putWord m idx w).read (4 * idx + 2) = lane w 2 ∧ (putWord m idx w).read (4 * idx + 3) = lane w 3 := by
  have h0 := Memory.write_wf (a := 4 * idx) (b := lane w 0) h
  have h1 := Memory.write_wf (a := 4 * idx + 1) (b := lane w 1) h0
  have h2 := Memory.write_wf (a := 4 * idx + 2) (b := lane w 2) h1
  unfold putWord
  refine ⟨?_, ?_, ?_, Memory.read_write_same h2⟩
  · rw [Memory.read_write_other (by omega), Memory.read_write_other (by omega), Memory.read_write_other (by omega),
      Memory.read_write_same h]
  · rw [Memory.read_write_other (by omega), Memory.read_write_other (by omega), Memory.read_write_same h0]
  · rw [Memory.read_write_other (by omega), Memory.read_write_same h1]

/-- The read port after a whole word was replaced. -/
theorem memRead_putWord {m : Memory} (idx k : Nat) (w : Word) (h : m.wf = true) :
    memRead (putWord m idx w) k = if k = idx then w else memRead m k := by
  split
  · subst k
    obtain ⟨h0, h1, h2, h3⟩ := read_putWord_inside idx w h
    rw [memRead, h0, h1, h2, h3, ofLanes_lane]
  · unfold memRead
    rw [read_putWord_outside (by omega), read_putWord_outside (by omega), read_putWord_outside (by omega),
      read_putWord_outside (by omega)]

/-- Two canonical stores with the same words are the same data. -/
theorem Memory.ext_memRead {m n : Memory} (hm : m.wf = true) (hn : n.wf = true) (h : ∀ k, memRead m k = memRead n k) :
    m = n := by
  refine Memory.ext hm hn fun a => ?_
  obtain ⟨m0, m1, m2, m3⟩ := lane_of_memRead m (a / 4)
  obtain ⟨n0, n1, n2, n3⟩ := lane_of_memRead n (a / 4)
  rw [h] at m0 m1 m2 m3
  obtain hr | hr | hr | hr : a = 4 * (a / 4) ∨ a = 4 * (a / 4) + 1 ∨ a = 4 * (a / 4) + 2 ∨ a = 4 * (a / 4) + 3 := by omega
  · rw [hr, ← m0, ← n0]
  · rw [hr, ← m1, ← n1]
  · rw [hr, ← m2, ← n2]
  · rw [hr, ← m3, ← n3]

/-- Everything the write port does to the data store: with the enable off nothing; with it on it replaces one word by
the merge. -/
theorem memWrite_cases (ds : Memory) (en : Bool) (idx : Nat) (m : Mask) (v : Word) :
    (en = false ∧ memWrite ds en idx m v = ds) ∨
    (en = true ∧ memWrite ds en idx m v = putWord ds idx (merge (memRead ds idx) v m)) := by
  cases en <;> simp [memWrite]

theorem memWrite_wf {ds : Memory} {en : Bool} {idx : Nat} {m : Mask} {v : Word} (h : ds.wf = true) :
    (memWrite ds en idx m v).wf = true := by
  obtain ⟨_, e⟩ | ⟨_, e⟩ := memWrite_cases ds en idx m v <;> rw [e]
  · exact h
  · exact putWord_wf h

theorem memWrite_within {ds : Memory} {d : Nat} {en : Bool} {idx : Nat} {m : Mask} {v : Word} (h : ds.within d = true)
    (hi : idx < d) : (memWrite ds en idx m v).within d = true := by
  obtain ⟨_, e⟩ | ⟨_, e⟩ := memWrite_cases ds en idx m v <;> rw [e]
  · exact h
  · exact putWord_within h hi

/-- The write port leaves every byte outside the addressed word alone, in every store. -/
theorem read_memWrite_outside {ds : Memory} {en : Bool} {idx a : Nat} {m : Mask} {v : Word}
    (h : a < 4 * idx ∨ 4 * idx + 4 ≤ a) : (memWrite ds en idx m v).read a = ds.read a := by
  obtain ⟨_, e⟩ | ⟨_, e⟩ := memWrite_cases ds en idx m v <;> rw [e]
  exact read_putWord_outside h

/-! ## Operands -/

/-- The lanes of a merge. -/
theorem lane_merge (old v : Word) (m : Mask) :
    lane (merge old v m) 0 = mergeLane old v m 0 ∧ lane (merge old v m) 1 = mergeLane old v m 1 ∧
    lane (merge old v m) 2 = mergeLane old v m 2 ∧ lane (merge old v m) 3 = mergeLane old v m 3 := by
  simp [merge]

/-- Two words with the same lanes are equal. -/
theorem word_ext {v w : Word} (h0 : lane v 0 = lane w 0) (h1 : lane v 1 = lane w 1) (h2 : lane v 2 = lane w 2)
    (h3 : lane v 3 = lane w 3) : v = w := by
  rw [← ofLanes_lane v, ← ofLanes_lane w, h0, h1, h2, h3]

theorem validDepth_pos {d : Nat} (h : validDepth d = true) : 0 < d := by
  simp only [validDepth, List.any_eq_true, beq_iff_eq] at h
  obtain ⟨k, _, rfl⟩ := h
  exact Nat.two_pow_pos k

/-- R90: a word index is always in range. -/
theorem widx_lt {a : Addr} {d : Nat} (h : validDepth d = true) : widx a d < d := Nat.mod_lt _ (validDepth_pos h)

end Sys2Proof.Machine
end

