-- ==== Sys2Proof/Laws/Construct.lean ====
section
/-! SUPPORT. The stores that construction builds. -/

namespace Sys2Proof.Machine

open Sys2Proof

/-- A store built from bytes is canonical. -/
theorem Memory.ofBytes_wfFrom (bytes : List Byte) : ∀ a, Memory.wfFrom a (Memory.ofBytes a bytes) = true := by
  induction bytes with
  | nil => intro a; rfl
  | cons b rest ih => intro a; exact consCell_wfFrom (Nat.le_refl a) (ih (a + 1))

/-- The bytes of a store built from bytes. -/
theorem Memory.read_ofBytes (bytes : List Byte) : ∀ {a n : Nat}, a ≤ n →
    (Memory.ofBytes a bytes).read n = bytes.getD (n - a) 0 := by
  induction bytes with
  | nil => intro a n _; simp [Memory.ofBytes, Memory.read, Memory.unlisted]
  | cons b rest ih =>
    intro a n h
    unfold Memory.ofBytes
    by_cases he : n = a
    · subst he
      rw [read_consCell_same (read_below (ofBytes_wfFrom rest (n + 1)) (Nat.lt_succ_self n))]
      simp
    · rw [read_consCell_other he, ih (by omega), show n - a = (n - (a + 1)) + 1 by omega]
      simp

/-- The image's store is canonical. -/
theorem imageStore_wf (image : List Word) : (imageStore image).wf = true := Memory.ofBytes_wfFrom _ 0

/-- The stores after reset are canonical. -/
theorem reset_wf : State.reset.is.wf = true ∧ State.reset.ds.wf = true := ⟨rfl, rfl⟩

/-- Construction succeeds exactly on legal depths and a fitting image, with the initial state. -/
theorem construct_eq_next {c : Config} {s : State} (h : construct c = .next s) :
    validDepth c.params.idepth = true ∧ validDepth c.params.ddepth = true ∧ c.image.length ≤ c.params.idepth ∧
      s = initialState c := by
  unfold construct at h
  repeat' split at h
  all_goals simp_all

end Sys2Proof.Machine
end

