-- ==== Sys2Proof/Laws/Decode.lean ====
section
/-! SUPPORT. The fields of keys, addresses and frames. -/

namespace Sys2Proof

/-- The fields of a key built from its fields (R67). -/
theorem mkKey_fields (seg cyc we : Bool) (sel : Selector) :
    (mkKey seg cyc we sel).getLsbD 6 = seg ∧ (mkKey seg cyc we sel).getLsbD 5 = cyc ∧
    (mkKey seg cyc we sel).getLsbD 4 = we ∧ (mkKey seg cyc we sel).extractLsb' 0 4 = sel := by
  revert seg cyc we sel; decide

/-- The row of a key built from its fields (R68). -/
theorem decodeKey_mkKey (seg cyc we : Bool) (sel : Selector) :
    decodeKey (mkKey seg cyc we sel) =
      match seg, cyc, we with
      | false, false, _ => Row.iIdle
      | false, true, _ => Row.iRead
      | true, false, false => Row.dIdle
      | true, true, false => readRow (groupOf sel)
      | true, true, true => writeRow (groupOf sel)
      | true, false, true => strayRow (groupOf sel) := by
  obtain ⟨h6, h5, h4, h0⟩ := mkKey_fields seg cyc we sel
  cases seg <;> cases cyc <;> cases we <;> simp only [decodeKey, h6, h5, h4, h0]

/-- An address is its selector and its offset (R64). -/
@[simp] theorem selector_append_offset (a : Addr) : selector a ++ offset a = a := by
  refine BitVec.eq_of_getLsbD_eq fun j hj => ?_
  simp only [BitVec.getLsbD_append, selector, offset, BitVec.getLsbD_extractLsb']
  split
  · simp [*]
  · rw [decide_eq_true (by omega), Bool.true_and]; congr 1; omega

/-- The selector of an address built from its fields. -/
@[simp] theorem selector_append (s : Selector) (o : BitVec 28) : selector (s ++ o) = s := by
  refine BitVec.eq_of_getLsbD_eq fun j hj => ?_
  have h : (s ++ o).getLsbD (28 + j) = _ := BitVec.getLsbD_append
  simp [selector, hj, h]

/-- The offset of an address built from its fields. -/
@[simp] theorem offset_append (s : Selector) (o : BitVec 28) : offset (s ++ o) = o := by
  refine BitVec.eq_of_getLsbD_eq fun j hj => ?_
  have h : (s ++ o).getLsbD j = _ := BitVec.getLsbD_append
  simp [offset, hj, h]

/-- An operation rebuilt from its row and its operands. -/
@[simp] theorem ofRow_row_operands (i : Instr) : Instr.ofRow i.row i.operands = i := by cases i <;> rfl

@[simp] theorem row_ofRow (r : Row) (o : DOperands) : (Instr.ofRow r o).row = r := by cases r <;> rfl

/-- A data-segment operation keeps its operands; an instruction-segment operation its address. -/
theorem operands_ofRow (r : Row) (o : DOperands) :
    (Instr.ofRow r o).operands = if r.seg then o else ⟨o.adr, 0, 0⟩ := by cases r <;> rfl

/-- A frame is its little-endian bytes. -/
theorem frame_of_bytes (f : BitVec 72) :
    f.extractLsb' 64 8 ++ f.extractLsb' 56 8 ++ f.extractLsb' 48 8 ++ f.extractLsb' 40 8 ++ f.extractLsb' 32 8 ++
      f.extractLsb' 24 8 ++ f.extractLsb' 16 8 ++ f.extractLsb' 8 8 ++ f.extractLsb' 0 8 = f := by
  refine BitVec.eq_of_getLsbD_eq fun j hj => ?_
  simp only [BitVec.getLsbD_append, BitVec.getLsbD_extractLsb']
  repeat' split
  all_goals (rw [decide_eq_true (by omega), Bool.true_and]; congr 1; omega)

/-- Decoding the bytes of a frame is decoding the frame. -/
theorem decode_frameBytes (f : BitVec 72) (rest : List Byte) :
    decode (frameBytes f ++ rest) =
      match decodeFrame f with
      | .ok i => .ok (i, rest)
      | .error e => .error e := by
  have h : decode (frameBytes f ++ rest) = match decodeFrame (f.extractLsb' 64 8 ++ f.extractLsb' 56 8 ++
      f.extractLsb' 48 8 ++ f.extractLsb' 40 8 ++ f.extractLsb' 32 8 ++ f.extractLsb' 24 8 ++ f.extractLsb' 16 8 ++
      f.extractLsb' 8 8 ++ f.extractLsb' 0 8) with
      | .ok i => .ok (i, rest)
      | .error e => .error e := rfl
  rw [h, frame_of_bytes]

end Sys2Proof
end

