-- ==== Sys2Proof/Laws/State.lean ====
section
/-! SUPPORT. One lemma per field per update of the state, each true by rfl, so that no proof unfolds a record update; and what the
outputs read. -/

namespace Sys2Proof.Machine

open Sys2Proof

variable (s : State)

@[simp] theorem State.latchAckI_params (cyc : Bool) : (s.latchAckI cyc).params = s.params := rfl
@[simp] theorem State.latchAckI_is (cyc : Bool) : (s.latchAckI cyc).is = s.is := rfl
@[simp] theorem State.latchAckI_ds (cyc : Bool) : (s.latchAckI cyc).ds = s.ds := rfl
@[simp] theorem State.latchAckI_out (cyc : Bool) : (s.latchAckI cyc).out = s.out := rfl
@[simp] theorem State.latchAckI_ackI (cyc : Bool) : (s.latchAckI cyc).ackI = cyc := rfl
@[simp] theorem State.latchAckI_ackD (cyc : Bool) : (s.latchAckI cyc).ackD = s.ackD := rfl
@[simp] theorem State.latchAckI_faults (cyc : Bool) : (s.latchAckI cyc).faults = s.faults := rfl
@[simp] theorem State.latchAckI_cycle (cyc : Bool) : (s.latchAckI cyc).cycle = s.cycle := rfl
@[simp] theorem State.latchAckI_script (cyc : Bool) : (s.latchAckI cyc).script = s.script := rfl
@[simp] theorem State.latchAckI_iOut (cyc : Bool) : (s.latchAckI cyc).iOut = s.iOut := rfl
@[simp] theorem State.latchAckI_dOut (cyc : Bool) : (s.latchAckI cyc).dOut = s.dOut := rfl
@[simp] theorem State.latchAckI_indicator (cyc : Bool) : (s.latchAckI cyc).indicator = s.indicator := rfl

@[simp] theorem State.latchAckD_params (cyc : Bool) : (s.latchAckD cyc).params = s.params := rfl
@[simp] theorem State.latchAckD_is (cyc : Bool) : (s.latchAckD cyc).is = s.is := rfl
@[simp] theorem State.latchAckD_ds (cyc : Bool) : (s.latchAckD cyc).ds = s.ds := rfl
@[simp] theorem State.latchAckD_out (cyc : Bool) : (s.latchAckD cyc).out = s.out := rfl
@[simp] theorem State.latchAckD_ackI (cyc : Bool) : (s.latchAckD cyc).ackI = s.ackI := rfl
@[simp] theorem State.latchAckD_ackD (cyc : Bool) : (s.latchAckD cyc).ackD = cyc := rfl
@[simp] theorem State.latchAckD_faults (cyc : Bool) : (s.latchAckD cyc).faults = s.faults := rfl
@[simp] theorem State.latchAckD_cycle (cyc : Bool) : (s.latchAckD cyc).cycle = s.cycle := rfl
@[simp] theorem State.latchAckD_script (cyc : Bool) : (s.latchAckD cyc).script = s.script := rfl
@[simp] theorem State.latchAckD_iOut (cyc : Bool) : (s.latchAckD cyc).iOut = s.iOut := rfl
@[simp] theorem State.latchAckD_dOut (cyc : Bool) : (s.latchAckD cyc).dOut = s.dOut := rfl
@[simp] theorem State.latchAckD_indicator (cyc : Bool) : (s.latchAckD cyc).indicator = s.indicator := rfl

@[simp] theorem State.raiseContractFault_params (f : Fault) : (s.raiseContractFault f).params = s.params := rfl
@[simp] theorem State.raiseContractFault_is (f : Fault) : (s.raiseContractFault f).is = s.is := rfl
@[simp] theorem State.raiseContractFault_ds (f : Fault) : (s.raiseContractFault f).ds = s.ds := rfl
@[simp] theorem State.raiseContractFault_out (f : Fault) : (s.raiseContractFault f).out = s.out := rfl
@[simp] theorem State.raiseContractFault_ackI (f : Fault) : (s.raiseContractFault f).ackI = s.ackI := rfl
@[simp] theorem State.raiseContractFault_ackD (f : Fault) : (s.raiseContractFault f).ackD = s.ackD := rfl
@[simp] theorem State.raiseContractFault_faults (f : Fault) : (s.raiseContractFault f).faults = addFault f s.faults := rfl
@[simp] theorem State.raiseContractFault_cycle (f : Fault) : (s.raiseContractFault f).cycle = s.cycle := rfl
@[simp] theorem State.raiseContractFault_script (f : Fault) : (s.raiseContractFault f).script = s.script := rfl
@[simp] theorem State.raiseContractFault_iOut (f : Fault) : (s.raiseContractFault f).iOut = s.iOut := rfl
@[simp] theorem State.raiseContractFault_dOut (f : Fault) : (s.raiseContractFault f).dOut = s.dOut := rfl
@[simp] theorem State.raiseContractFault_indicator (f : Fault) : (s.raiseContractFault f).indicator = s.indicator := rfl

@[simp] theorem State.driveI_params (w : Word) : (s.driveI w).params = s.params := rfl
@[simp] theorem State.driveI_is (w : Word) : (s.driveI w).is = s.is := rfl
@[simp] theorem State.driveI_ds (w : Word) : (s.driveI w).ds = s.ds := rfl
@[simp] theorem State.driveI_out (w : Word) : (s.driveI w).out = s.out := rfl
@[simp] theorem State.driveI_ackI (w : Word) : (s.driveI w).ackI = s.ackI := rfl
@[simp] theorem State.driveI_ackD (w : Word) : (s.driveI w).ackD = s.ackD := rfl
@[simp] theorem State.driveI_faults (w : Word) : (s.driveI w).faults = s.faults := rfl
@[simp] theorem State.driveI_cycle (w : Word) : (s.driveI w).cycle = s.cycle := rfl
@[simp] theorem State.driveI_script (w : Word) : (s.driveI w).script = s.script := rfl
@[simp] theorem State.driveI_iOut (w : Word) : (s.driveI w).iOut = some ⟨w, s.ackI⟩ := rfl
@[simp] theorem State.driveI_dOut (w : Word) : (s.driveI w).dOut = s.dOut := rfl
@[simp] theorem State.driveI_indicator (w : Word) : (s.driveI w).indicator = s.indicator := rfl

@[simp] theorem State.driveD_params (w : Word) : (s.driveD w).params = s.params := rfl
@[simp] theorem State.driveD_is (w : Word) : (s.driveD w).is = s.is := rfl
@[simp] theorem State.driveD_ds (w : Word) : (s.driveD w).ds = s.ds := rfl
@[simp] theorem State.driveD_out (w : Word) : (s.driveD w).out = s.out := rfl
@[simp] theorem State.driveD_ackI (w : Word) : (s.driveD w).ackI = s.ackI := rfl
@[simp] theorem State.driveD_ackD (w : Word) : (s.driveD w).ackD = s.ackD := rfl
@[simp] theorem State.driveD_faults (w : Word) : (s.driveD w).faults = s.faults := rfl
@[simp] theorem State.driveD_cycle (w : Word) : (s.driveD w).cycle = s.cycle := rfl
@[simp] theorem State.driveD_script (w : Word) : (s.driveD w).script = s.script := rfl
@[simp] theorem State.driveD_iOut (w : Word) : (s.driveD w).iOut = s.iOut := rfl
@[simp] theorem State.driveD_dOut (w : Word) : (s.driveD w).dOut = some ⟨w, s.ackD⟩ := rfl
@[simp] theorem State.driveD_indicator (w : Word) : (s.driveD w).indicator = s.indicator := rfl

@[simp] theorem State.iCycle_params (w : Word) (cyc : Bool) : (s.iCycle w cyc).params = s.params := rfl
@[simp] theorem State.iCycle_is (w : Word) (cyc : Bool) : (s.iCycle w cyc).is = s.is := rfl
@[simp] theorem State.iCycle_ds (w : Word) (cyc : Bool) : (s.iCycle w cyc).ds = s.ds := rfl
@[simp] theorem State.iCycle_out (w : Word) (cyc : Bool) : (s.iCycle w cyc).out = s.out := rfl
@[simp] theorem State.iCycle_ackI (w : Word) (cyc : Bool) : (s.iCycle w cyc).ackI = cyc := rfl
@[simp] theorem State.iCycle_ackD (w : Word) (cyc : Bool) : (s.iCycle w cyc).ackD = s.ackD := rfl
@[simp] theorem State.iCycle_faults (w : Word) (cyc : Bool) : (s.iCycle w cyc).faults = s.faults := rfl
@[simp] theorem State.iCycle_cycle (w : Word) (cyc : Bool) : (s.iCycle w cyc).cycle = s.cycle := rfl
@[simp] theorem State.iCycle_script (w : Word) (cyc : Bool) : (s.iCycle w cyc).script = s.script := rfl
@[simp] theorem State.iCycle_iOut (w : Word) (cyc : Bool) : (s.iCycle w cyc).iOut = some ⟨w, s.ackI⟩ := rfl
@[simp] theorem State.iCycle_dOut (w : Word) (cyc : Bool) : (s.iCycle w cyc).dOut = s.dOut := rfl
@[simp] theorem State.iCycle_indicator (w : Word) (cyc : Bool) : (s.iCycle w cyc).indicator = s.indicator := rfl

@[simp] theorem State.dCycle_params (w : Word) (cyc : Bool) : (s.dCycle w cyc).params = s.params := rfl
@[simp] theorem State.dCycle_is (w : Word) (cyc : Bool) : (s.dCycle w cyc).is = s.is := rfl
@[simp] theorem State.dCycle_ds (w : Word) (cyc : Bool) : (s.dCycle w cyc).ds = s.ds := rfl
@[simp] theorem State.dCycle_out (w : Word) (cyc : Bool) : (s.dCycle w cyc).out = s.out := rfl
@[simp] theorem State.dCycle_ackI (w : Word) (cyc : Bool) : (s.dCycle w cyc).ackI = s.ackI := rfl
@[simp] theorem State.dCycle_ackD (w : Word) (cyc : Bool) : (s.dCycle w cyc).ackD = cyc := rfl
@[simp] theorem State.dCycle_faults (w : Word) (cyc : Bool) : (s.dCycle w cyc).faults = s.faults := rfl
@[simp] theorem State.dCycle_cycle (w : Word) (cyc : Bool) : (s.dCycle w cyc).cycle = s.cycle := rfl
@[simp] theorem State.dCycle_script (w : Word) (cyc : Bool) : (s.dCycle w cyc).script = s.script := rfl
@[simp] theorem State.dCycle_iOut (w : Word) (cyc : Bool) : (s.dCycle w cyc).iOut = s.iOut := rfl
@[simp] theorem State.dCycle_dOut (w : Word) (cyc : Bool) : (s.dCycle w cyc).dOut = some ⟨w, s.ackD⟩ := rfl
@[simp] theorem State.dCycle_indicator (w : Word) (cyc : Bool) : (s.dCycle w cyc).indicator = s.indicator := rfl

@[simp] theorem State.writeDs_params (en : Bool) (o : DOperands) : (s.writeDs en o).params = s.params := rfl
@[simp] theorem State.writeDs_is (en : Bool) (o : DOperands) : (s.writeDs en o).is = s.is := rfl
@[simp] theorem State.writeDs_ds (en : Bool) (o : DOperands) : (s.writeDs en o).ds = memWrite s.ds en (widx o.adr s.params.ddepth) o.sel o.datW := rfl
@[simp] theorem State.writeDs_out (en : Bool) (o : DOperands) : (s.writeDs en o).out = s.out := rfl
@[simp] theorem State.writeDs_ackI (en : Bool) (o : DOperands) : (s.writeDs en o).ackI = s.ackI := rfl
@[simp] theorem State.writeDs_ackD (en : Bool) (o : DOperands) : (s.writeDs en o).ackD = s.ackD := rfl
@[simp] theorem State.writeDs_faults (en : Bool) (o : DOperands) : (s.writeDs en o).faults = s.faults := rfl
@[simp] theorem State.writeDs_cycle (en : Bool) (o : DOperands) : (s.writeDs en o).cycle = s.cycle := rfl
@[simp] theorem State.writeDs_script (en : Bool) (o : DOperands) : (s.writeDs en o).script = s.script := rfl
@[simp] theorem State.writeDs_iOut (en : Bool) (o : DOperands) : (s.writeDs en o).iOut = s.iOut := rfl
@[simp] theorem State.writeDs_dOut (en : Bool) (o : DOperands) : (s.writeDs en o).dOut = s.dOut := rfl
@[simp] theorem State.writeDs_indicator (en : Bool) (o : DOperands) : (s.writeDs en o).indicator = s.indicator := rfl

@[simp] theorem State.writeOut_params (en : Bool) (o : DOperands) : (s.writeOut en o).params = s.params := rfl
@[simp] theorem State.writeOut_is (en : Bool) (o : DOperands) : (s.writeOut en o).is = s.is := rfl
@[simp] theorem State.writeOut_ds (en : Bool) (o : DOperands) : (s.writeOut en o).ds = s.ds := rfl
@[simp] theorem State.writeOut_out (en : Bool) (o : DOperands) : (s.writeOut en o).out = if en then o.datW else s.out := rfl
@[simp] theorem State.writeOut_ackI (en : Bool) (o : DOperands) : (s.writeOut en o).ackI = s.ackI := rfl
@[simp] theorem State.writeOut_ackD (en : Bool) (o : DOperands) : (s.writeOut en o).ackD = s.ackD := rfl
@[simp] theorem State.writeOut_faults (en : Bool) (o : DOperands) : (s.writeOut en o).faults = s.faults := rfl
@[simp] theorem State.writeOut_cycle (en : Bool) (o : DOperands) : (s.writeOut en o).cycle = s.cycle := rfl
@[simp] theorem State.writeOut_script (en : Bool) (o : DOperands) : (s.writeOut en o).script = s.script := rfl
@[simp] theorem State.writeOut_iOut (en : Bool) (o : DOperands) : (s.writeOut en o).iOut = s.iOut := rfl
@[simp] theorem State.writeOut_dOut (en : Bool) (o : DOperands) : (s.writeOut en o).dOut = s.dOut := rfl
@[simp] theorem State.writeOut_indicator (en : Bool) (o : DOperands) : (s.writeOut en o).indicator = s.indicator := rfl

@[simp] theorem State.beginCycle_params : s.beginCycle.params = s.params := rfl
@[simp] theorem State.beginCycle_is : s.beginCycle.is = s.is := rfl
@[simp] theorem State.beginCycle_ds : s.beginCycle.ds = s.ds := rfl
@[simp] theorem State.beginCycle_out : s.beginCycle.out = s.out := rfl
@[simp] theorem State.beginCycle_ackI : s.beginCycle.ackI = s.ackI := rfl
@[simp] theorem State.beginCycle_ackD : s.beginCycle.ackD = s.ackD := rfl
@[simp] theorem State.beginCycle_faults : s.beginCycle.faults = s.faults := rfl
@[simp] theorem State.beginCycle_cycle : s.beginCycle.cycle = s.cycle := rfl
@[simp] theorem State.beginCycle_script : s.beginCycle.script = s.script := rfl
@[simp] theorem State.beginCycle_iOut : s.beginCycle.iOut = s.iOut := rfl
@[simp] theorem State.beginCycle_dOut : s.beginCycle.dOut = s.dOut := rfl
@[simp] theorem State.beginCycle_indicator : s.beginCycle.indicator = s.indicatorNow := rfl

@[simp] theorem State.endCycle_params : s.endCycle.params = s.params := rfl
@[simp] theorem State.endCycle_is : s.endCycle.is = s.is := rfl
@[simp] theorem State.endCycle_ds : s.endCycle.ds = s.ds := rfl
@[simp] theorem State.endCycle_out : s.endCycle.out = s.out := rfl
@[simp] theorem State.endCycle_ackI : s.endCycle.ackI = s.ackI := rfl
@[simp] theorem State.endCycle_ackD : s.endCycle.ackD = s.ackD := rfl
@[simp] theorem State.endCycle_faults : s.endCycle.faults = s.faults := rfl
@[simp] theorem State.endCycle_cycle : s.endCycle.cycle = s.cycle + 1 := rfl
@[simp] theorem State.endCycle_script : s.endCycle.script = s.script.tail := rfl
@[simp] theorem State.endCycle_iOut : s.endCycle.iOut = s.iOut := rfl
@[simp] theorem State.endCycle_dOut : s.endCycle.dOut = s.dOut := rfl
@[simp] theorem State.endCycle_indicator : s.endCycle.indicator = s.indicator := rfl

/-! The read-data functions see only the stores, the depths and the cycle number. -/

@[simp] theorem State.latchAckI_iReadData (cyc : Bool) (adr : Addr) : (s.latchAckI cyc).iReadData adr = s.iReadData adr := rfl
@[simp] theorem State.latchAckI_dsReadData (cyc : Bool) (adr : Addr) : (s.latchAckI cyc).dsReadData adr = s.dsReadData adr := rfl
@[simp] theorem State.latchAckI_outReadData (cyc : Bool) : (s.latchAckI cyc).outReadData = s.outReadData := rfl
@[simp] theorem State.latchAckI_strayTakes (cyc : Bool) : (s.latchAckI cyc).strayTakes = s.strayTakes := rfl
@[simp] theorem State.latchAckI_dReadData (cyc : Bool) (adr : Addr) : (s.latchAckI cyc).dReadData adr = s.dReadData adr := rfl
@[simp] theorem State.latchAckD_iReadData (cyc : Bool) (adr : Addr) : (s.latchAckD cyc).iReadData adr = s.iReadData adr := rfl
@[simp] theorem State.latchAckD_dsReadData (cyc : Bool) (adr : Addr) : (s.latchAckD cyc).dsReadData adr = s.dsReadData adr := rfl
@[simp] theorem State.latchAckD_outReadData (cyc : Bool) : (s.latchAckD cyc).outReadData = s.outReadData := rfl
@[simp] theorem State.latchAckD_strayTakes (cyc : Bool) : (s.latchAckD cyc).strayTakes = s.strayTakes := rfl
@[simp] theorem State.latchAckD_dReadData (cyc : Bool) (adr : Addr) : (s.latchAckD cyc).dReadData adr = s.dReadData adr := rfl
@[simp] theorem State.raiseContractFault_iReadData (f : Fault) (adr : Addr) : (s.raiseContractFault f).iReadData adr = s.iReadData adr := rfl
@[simp] theorem State.raiseContractFault_dsReadData (f : Fault) (adr : Addr) : (s.raiseContractFault f).dsReadData adr = s.dsReadData adr := rfl
@[simp] theorem State.raiseContractFault_outReadData (f : Fault) : (s.raiseContractFault f).outReadData = s.outReadData := rfl
@[simp] theorem State.raiseContractFault_strayTakes (f : Fault) : (s.raiseContractFault f).strayTakes = s.strayTakes := rfl
@[simp] theorem State.raiseContractFault_dReadData (f : Fault) (adr : Addr) : (s.raiseContractFault f).dReadData adr = s.dReadData adr := rfl
@[simp] theorem State.driveI_iReadData (w : Word) (adr : Addr) : (s.driveI w).iReadData adr = s.iReadData adr := rfl
@[simp] theorem State.driveI_dsReadData (w : Word) (adr : Addr) : (s.driveI w).dsReadData adr = s.dsReadData adr := rfl
@[simp] theorem State.driveI_outReadData (w : Word) : (s.driveI w).outReadData = s.outReadData := rfl
@[simp] theorem State.driveI_strayTakes (w : Word) : (s.driveI w).strayTakes = s.strayTakes := rfl
@[simp] theorem State.driveI_dReadData (w : Word) (adr : Addr) : (s.driveI w).dReadData adr = s.dReadData adr := rfl
@[simp] theorem State.driveD_iReadData (w : Word) (adr : Addr) : (s.driveD w).iReadData adr = s.iReadData adr := rfl
@[simp] theorem State.driveD_dsReadData (w : Word) (adr : Addr) : (s.driveD w).dsReadData adr = s.dsReadData adr := rfl
@[simp] theorem State.driveD_outReadData (w : Word) : (s.driveD w).outReadData = s.outReadData := rfl
@[simp] theorem State.driveD_strayTakes (w : Word) : (s.driveD w).strayTakes = s.strayTakes := rfl
@[simp] theorem State.driveD_dReadData (w : Word) (adr : Addr) : (s.driveD w).dReadData adr = s.dReadData adr := rfl
@[simp] theorem State.iCycle_iReadData (w : Word) (cyc : Bool) (adr : Addr) : (s.iCycle w cyc).iReadData adr = s.iReadData adr := rfl
@[simp] theorem State.iCycle_dsReadData (w : Word) (cyc : Bool) (adr : Addr) : (s.iCycle w cyc).dsReadData adr = s.dsReadData adr := rfl
@[simp] theorem State.iCycle_outReadData (w : Word) (cyc : Bool) : (s.iCycle w cyc).outReadData = s.outReadData := rfl
@[simp] theorem State.iCycle_strayTakes (w : Word) (cyc : Bool) : (s.iCycle w cyc).strayTakes = s.strayTakes := rfl
@[simp] theorem State.iCycle_dReadData (w : Word) (cyc : Bool) (adr : Addr) : (s.iCycle w cyc).dReadData adr = s.dReadData adr := rfl
@[simp] theorem State.dCycle_iReadData (w : Word) (cyc : Bool) (adr : Addr) : (s.dCycle w cyc).iReadData adr = s.iReadData adr := rfl
@[simp] theorem State.dCycle_dsReadData (w : Word) (cyc : Bool) (adr : Addr) : (s.dCycle w cyc).dsReadData adr = s.dsReadData adr := rfl
@[simp] theorem State.dCycle_outReadData (w : Word) (cyc : Bool) : (s.dCycle w cyc).outReadData = s.outReadData := rfl
@[simp] theorem State.dCycle_strayTakes (w : Word) (cyc : Bool) : (s.dCycle w cyc).strayTakes = s.strayTakes := rfl
@[simp] theorem State.dCycle_dReadData (w : Word) (cyc : Bool) (adr : Addr) : (s.dCycle w cyc).dReadData adr = s.dReadData adr := rfl
@[simp] theorem State.writeDs_iReadData (en : Bool) (o : DOperands) (adr : Addr) : (s.writeDs en o).iReadData adr = s.iReadData adr := rfl
@[simp] theorem State.writeDs_outReadData (en : Bool) (o : DOperands) : (s.writeDs en o).outReadData = s.outReadData := rfl
@[simp] theorem State.writeDs_strayTakes (en : Bool) (o : DOperands) : (s.writeDs en o).strayTakes = s.strayTakes := rfl
@[simp] theorem State.writeOut_iReadData (en : Bool) (o : DOperands) (adr : Addr) : (s.writeOut en o).iReadData adr = s.iReadData adr := rfl
@[simp] theorem State.writeOut_dsReadData (en : Bool) (o : DOperands) (adr : Addr) : (s.writeOut en o).dsReadData adr = s.dsReadData adr := rfl
@[simp] theorem State.writeOut_outReadData (en : Bool) (o : DOperands) : (s.writeOut en o).outReadData = s.outReadData := rfl
@[simp] theorem State.writeOut_strayTakes (en : Bool) (o : DOperands) : (s.writeOut en o).strayTakes = s.strayTakes := rfl
@[simp] theorem State.writeOut_dReadData (en : Bool) (o : DOperands) (adr : Addr) : (s.writeOut en o).dReadData adr = s.dReadData adr := rfl
@[simp] theorem State.beginCycle_iReadData (adr : Addr) : s.beginCycle.iReadData adr = s.iReadData adr := rfl
@[simp] theorem State.beginCycle_dsReadData (adr : Addr) : s.beginCycle.dsReadData adr = s.dsReadData adr := rfl
@[simp] theorem State.beginCycle_outReadData : s.beginCycle.outReadData = s.outReadData := rfl
@[simp] theorem State.beginCycle_strayTakes : s.beginCycle.strayTakes = s.strayTakes := rfl
@[simp] theorem State.beginCycle_dReadData (adr : Addr) : s.beginCycle.dReadData adr = s.dReadData adr := rfl
@[simp] theorem State.endCycle_iReadData (adr : Addr) : s.endCycle.iReadData adr = s.iReadData adr := rfl
@[simp] theorem State.endCycle_dsReadData (adr : Addr) : s.endCycle.dsReadData adr = s.dsReadData adr := rfl

/-! The order of the instruction segment's update and a data-segment update does not matter: they touch disjoint fields. -/

theorem State.iCycle_dCycle (w v : Word) (b c : Bool) :
    (s.iCycle w b).dCycle v c = (s.dCycle v c).iCycle w b := rfl
theorem State.iCycle_writeDs (w : Word) (b en : Bool) (o : DOperands) :
    (s.iCycle w b).writeDs en o = (s.writeDs en o).iCycle w b := rfl
theorem State.iCycle_writeOut (w : Word) (b en : Bool) (o : DOperands) :
    (s.iCycle w b).writeOut en o = (s.writeOut en o).iCycle w b := rfl
theorem State.iCycle_raiseContractFault (w : Word) (b : Bool) (f : Fault) :
    (s.iCycle w b).raiseContractFault f = (s.raiseContractFault f).iCycle w b := rfl

end Sys2Proof.Machine
end

