-- ==== Sys2Proof/Laws/Exec.lean ====
section
/-! SUPPORT. What an operation does, said once: the instruction segment's operation, the data segment's operation by the decoder's
destination, and how a cycle composes them. -/

namespace Sys2Proof.Machine

open Sys2Proof

@[simp] theorem andThen_next (s : State) (f : State → Host.Outcome State Fault Refusal) :
    andThen (.next s) f = f s := rfl

/-- A composition answers a next state exactly when both parts do. -/
theorem andThen_eq_next {r : Host.Outcome State Fault Refusal} {f : State → Host.Outcome State Fault Refusal} {t : State} :
    andThen r f = .next t ↔ ∃ s, r = .next s ∧ f s = .next t := by
  cases r <;> simp [andThen]

/-- Every operation completes, in every state. -/
theorem exec_next (i : Instr) (s : State) : ∃ t, exec i s = .next t := by
  cases i <;> exact ⟨_, rfl⟩

theorem iInstr_eq (x : Input) : iInstr x = if x.iCyc then .iRead x.iAdr else .iIdle x.iAdr := by
  unfold iInstr Input.iKey
  rw [decodeKey_mkKey]
  cases x.iCyc <;> rfl

/-- The instruction segment's operation of a cycle. -/
theorem exec_iInstr (x : Input) (s : State) : exec (iInstr x) s = .next (s.iCycle (s.iReadData x.iAdr) x.iCyc) := by
  rw [iInstr_eq]
  cases h : x.iCyc <;> rfl

/-- The operand values of a cycle's data request. -/
def dOps (x : Input) : DOperands := ⟨x.dAdr, x.dDatW, x.dSel⟩

theorem dInstr_eq (x : Input) :
    dInstr x = Instr.ofRow (match x.dCyc, x.dWe with
      | false, false => Row.dIdle
      | true, false => readRow (groupOf (selector x.dAdr))
      | true, true => writeRow (groupOf (selector x.dAdr))
      | false, true => strayRow (groupOf (selector x.dAdr))) (dOps x) := by
  unfold dInstr Input.dKey
  rw [decodeKey_mkKey]
  cases x.dCyc <;> cases x.dWe <;> rfl

/-- The destination of an address by its selector group. -/
theorem destOf_eq (a : Addr) : destOf a = match groupOf (selector a) with
    | .dataStore => .dataStore
    | .outputRegister => .outputRegister
    | _ => .unmapped := by
  unfold destOf
  generalize selector a = s
  revert s; decide

/-- What the data segment's operation of a cycle does, by the decoder's destination. -/
def dataEffect (x : Input) (s : State) : State :=
  let u := s.dCycle (s.dReadData x.dAdr) x.dCyc
  let en := x.dWe && (x.dCyc || s.strayTakes)
  let w := match destOf x.dAdr with
    | .dataStore => if x.dWe then u.writeDs en (dOps x) else u
    | .outputRegister => if x.dWe then u.writeOut en (dOps x) else u
    | .unmapped => u
  if isStray x then w.raiseContractFault .strayWrite else w

/-- The data segment's operation of a cycle. -/
theorem exec_dInstr (x : Input) (s : State) : exec (dInstr x) s = .next (dataEffect x s) := by
  rw [dInstr_eq]
  unfold dataEffect isStray State.dReadData
  rw [destOf_eq]
  cases hc : x.dCyc <;> cases hw : x.dWe <;> cases hg : groupOf (selector x.dAdr) <;>
    simp [Instr.ofRow, readRow, writeRow, strayRow, exec, execDIdle, execDReadDs, execDReadOut, execDReadUnm0,
      execDReadUnm3, execDReadUnm4to7, execDReadUnm8toF, execDWriteDs, execDWriteOut, execDWriteUnm0, execDWriteUnm3,
      execDWriteUnm4to7, execDWriteUnm8toF, execDStrayDs, execDStrayOut, execDStrayUnm0, execDStrayUnm3,
      execDStrayUnm4to7, execDStrayUnm8toF, State.readUnmapped, State.writeUnmapped, State.strayUnmapped, dOps,
      State.dReadData, destOf_eq, hg]

/-! The fields of `dataEffect`. -/

section
variable (x : Input) (s : State)

/-- A field that no data-segment write, fault or ack touches. -/
theorem dataEffect_keeps {α : Type} (f : State → α) (hc : ∀ (u : State) w b, f (u.dCycle w b) = f u)
    (hd : ∀ (u : State) en o, f (u.writeDs en o) = f u) (ho : ∀ (u : State) en o, f (u.writeOut en o) = f u)
    (hf : ∀ (u : State) k, f (u.raiseContractFault k) = f u) : f (dataEffect x s) = f s := by
  unfold dataEffect
  cases destOf x.dAdr <;> dsimp only <;> repeat' split
  all_goals simp only [hc, hd, ho, hf]

@[simp] theorem dataEffect_params : (dataEffect x s).params = s.params :=
  dataEffect_keeps x s State.params (fun _ _ _ => rfl) (fun _ _ _ => rfl) (fun _ _ _ => rfl) (fun _ _ => rfl)
@[simp] theorem dataEffect_is : (dataEffect x s).is = s.is :=
  dataEffect_keeps x s State.is (fun _ _ _ => rfl) (fun _ _ _ => rfl) (fun _ _ _ => rfl) (fun _ _ => rfl)
@[simp] theorem dataEffect_ackI : (dataEffect x s).ackI = s.ackI :=
  dataEffect_keeps x s State.ackI (fun _ _ _ => rfl) (fun _ _ _ => rfl) (fun _ _ _ => rfl) (fun _ _ => rfl)
@[simp] theorem dataEffect_cycle : (dataEffect x s).cycle = s.cycle :=
  dataEffect_keeps x s State.cycle (fun _ _ _ => rfl) (fun _ _ _ => rfl) (fun _ _ _ => rfl) (fun _ _ => rfl)
@[simp] theorem dataEffect_script : (dataEffect x s).script = s.script :=
  dataEffect_keeps x s State.script (fun _ _ _ => rfl) (fun _ _ _ => rfl) (fun _ _ _ => rfl) (fun _ _ => rfl)
@[simp] theorem dataEffect_iOut : (dataEffect x s).iOut = s.iOut :=
  dataEffect_keeps x s State.iOut (fun _ _ _ => rfl) (fun _ _ _ => rfl) (fun _ _ _ => rfl) (fun _ _ => rfl)
@[simp] theorem dataEffect_indicator : (dataEffect x s).indicator = s.indicator :=
  dataEffect_keeps x s State.indicator (fun _ _ _ => rfl) (fun _ _ _ => rfl) (fun _ _ _ => rfl) (fun _ _ => rfl)

@[simp] theorem dataEffect_dOut : (dataEffect x s).dOut = some ⟨s.dReadData x.dAdr, s.ackD⟩ := by
  unfold dataEffect
  cases destOf x.dAdr <;> dsimp only <;> repeat' split
  all_goals simp

@[simp] theorem dataEffect_ackD : (dataEffect x s).ackD = x.dCyc := by
  unfold dataEffect
  cases destOf x.dAdr <;> dsimp only <;> repeat' split
  all_goals simp

@[simp] theorem dataEffect_faults :
    (dataEffect x s).faults = if isStray x then addFault .strayWrite s.faults else s.faults := by
  unfold dataEffect
  cases destOf x.dAdr <;> dsimp only <;> repeat' split
  all_goals simp

/-- A stray cycle's write is decided by the free value, any other write is done. -/
theorem commit_eq : (x.dWe && (x.dCyc || s.strayTakes)) = (x.dWe && (!isStray x || s.strayTakes)) := by
  unfold isStray
  cases x.dWe <;> cases x.dCyc <;> rfl

@[simp] theorem dataEffect_ds : (dataEffect x s).ds =
    memWrite s.ds (dsWe x && (!isStray x || s.strayTakes)) (widx x.dAdr s.params.ddepth) x.dSel x.dDatW := by
  unfold dataEffect dsWe
  rw [commit_eq]
  cases destOf x.dAdr <;> cases hw : x.dWe <;> dsimp only <;> repeat' split
  all_goals simp_all [memWrite, dOps]

@[simp] theorem dataEffect_out : (dataEffect x s).out =
    if outWe x && (!isStray x || s.strayTakes) then x.dDatW else s.out := by
  unfold dataEffect outWe
  rw [commit_eq]
  cases destOf x.dAdr <;> cases hw : x.dWe <;> dsimp only <;> repeat' split
  all_goals simp_all [dOps]

end

/-! ## Runs -/

/-- A cycle: the instruction segment's operation, the data segment's, the clock edge. -/
theorem step_compose (s : State) : step s =
    .next (dataEffect s.currentInput
      (s.beginCycle.iCycle (s.iReadData s.currentInput.iAdr) s.currentInput.iCyc)).endCycle := by
  unfold step runCycle
  rw [exec_iInstr, andThen_next, exec_dInstr]
  rfl

end Sys2Proof.Machine
end

