-- ==== Sys2Proof/Laws/PerInstr.lean ====
section
/-! SUPPORT. The family KeyRoundTrip: the operation key of a well-formed operation decodes to the operation's row (R67, R68). -/

namespace Sys2Proof.Laws.KeyRoundTrip

open Sys2Proof

def Statement (i : Instr) : Prop := i.wf = true → decodeKey i.key = i.row

/-- A key on the data segment whose selector lies in the row's group. -/
theorem of_group {sel : Selector} {g : Group} (cyc we : Bool) (h : (groupOf sel == g) = true) :
    decodeKey (mkKey true cyc we sel) =
      match cyc, we with
      | false, false => Row.dIdle
      | true, false => readRow g
      | true, true => writeRow g
      | false, true => strayRow g := by
  rw [decodeKey_mkKey, eq_of_beq h]; cases cyc <;> cases we <;> rfl

theorem iIdle (a : Addr) : Statement (.iIdle a) := fun _ => decodeKey_mkKey false false false _
theorem iRead (a : Addr) : Statement (.iRead a) := fun _ => decodeKey_mkKey false true false _
theorem dIdle (o : DOperands) : Statement (.dIdle o) := fun _ => decodeKey_mkKey true false false _
theorem dReadDs (o : DOperands) : Statement (.dReadDs o) := of_group true false
theorem dReadOut (o : DOperands) : Statement (.dReadOut o) := of_group true false
theorem dReadUnm0 (o : DOperands) : Statement (.dReadUnm0 o) := of_group true false
theorem dReadUnm3 (o : DOperands) : Statement (.dReadUnm3 o) := of_group true false
theorem dReadUnm4to7 (o : DOperands) : Statement (.dReadUnm4to7 o) := of_group true false
theorem dReadUnm8toF (o : DOperands) : Statement (.dReadUnm8toF o) := of_group true false
theorem dWriteDs (o : DOperands) : Statement (.dWriteDs o) := of_group true true
theorem dWriteOut (o : DOperands) : Statement (.dWriteOut o) := of_group true true
theorem dWriteUnm0 (o : DOperands) : Statement (.dWriteUnm0 o) := of_group true true
theorem dWriteUnm3 (o : DOperands) : Statement (.dWriteUnm3 o) := of_group true true
theorem dWriteUnm4to7 (o : DOperands) : Statement (.dWriteUnm4to7 o) := of_group true true
theorem dWriteUnm8toF (o : DOperands) : Statement (.dWriteUnm8toF o) := of_group true true
theorem dStrayDs (o : DOperands) : Statement (.dStrayDs o) := of_group false true
theorem dStrayOut (o : DOperands) : Statement (.dStrayOut o) := of_group false true
theorem dStrayUnm0 (o : DOperands) : Statement (.dStrayUnm0 o) := of_group false true
theorem dStrayUnm3 (o : DOperands) : Statement (.dStrayUnm3 o) := of_group false true
theorem dStrayUnm4to7 (o : DOperands) : Statement (.dStrayUnm4to7 o) := of_group false true
theorem dStrayUnm8toF (o : DOperands) : Statement (.dStrayUnm8toF o) := of_group false true

end Sys2Proof.Laws.KeyRoundTrip
end

