-- ==== Sys2Proof/Laws/Run.lean ====
section
/-! SUPPORT. Runs, one cycle at a time. -/

namespace Sys2Proof.Machine

open Sys2Proof

@[simp] theorem run_zero (s : State) : run 0 s = .next s := rfl

/-- A run of `n + 1` cycles is a cycle and then a run of `n`. -/
theorem run_succ (n : Nat) (s : State) : run (n + 1) s = andThen (step s) (run n) := by
  unfold andThen run
  cases h : step s <;> simp [Host.Core.run, core, h]

/-- The current input record is the one zero cycles from now. -/
theorem inputAt_zero (s : State) : s.inputAt 0 = s.currentInput := by
  unfold State.inputAt State.currentInput
  cases s.script <;> rfl

/-- A cycle passes time: the inputs of the next state are the later inputs of this one. -/
theorem inputAt_endCycle (s : State) (k : Nat) : s.endCycle.inputAt k = s.inputAt (k + 1) := by
  have e : s.cycle + 1 + k = s.cycle + (k + 1) := by omega
  simp only [State.inputAt, State.endCycle]
  cases s.script <;> simp [e]

/-- The inputs to come depend on the list of inputs and the cycle number only. -/
theorem inputAt_congr {s t : State} (hs : t.script = s.script) (hc : t.cycle = s.cycle) (k : Nat) :
    t.inputAt k = s.inputAt k := by
  unfold State.inputAt
  rw [hs, hc]

/-- The kinds recorded after one is added. -/
theorem mem_addFault {f g : Fault} {fs : List Fault} : f ∈ addFault g fs ↔ f = g ∨ f ∈ fs := by
  unfold addFault
  split <;> simp_all

theorem addFault_nodup {f : Fault} {fs : List Fault} (h : fs.Nodup) : (addFault f fs).Nodup := by
  unfold addFault
  split <;> simp_all

end Sys2Proof.Machine
end

