-- ==== Sys2Proof/Tests/Slice0.lean ====
section
/-! SUPPORT. The model's own tests. Expected results come from the spec: the operation map (30_encoding.md R68) for the words, and
95_test_vectors.md (V<n>) for the rest; each theorem names its source. The last part gives the statements' hypotheses witnesses. -/

namespace Sys2Proof.Tests

open Sys2Proof Sys2Proof.Machine

/-! ## Decoding: words written out from the encoding

A word is `d_sel`, `d_dat_w` (8 digits), `adr[27:0]` (7 digits), then the key's two digits (R67: seg, cyc, we, selector). -/

/-- R68, instruction-segment rows; the second I_READ word has `K[4] = 1`, which the row masks out (R69). -/
theorem test_decode_instr_segment :
    decodeTableWord 72 0x0_00000000_0000004_00 = some (.iIdle 0x00000004) ∧
    decodeTableWord 72 0x0_00000000_000000C_21 = some (.iRead 0x1000000C) ∧
    decodeTableWord 72 0x0_00000000_0000000_3F = some (.iRead 0xF0000000) := by decide

/-- R68, D_IDLE (V35's operands) and the D_READ rows. -/
theorem test_decode_reads :
    decodeTableWord 72 0xF_FFFFFFFF_0000000_41 = some (.dIdle ⟨0x10000000, 0xFFFFFFFF, 0xF⟩) ∧
    decodeTableWord 72 0x0_00000000_0000004_61 = some (.dReadDs ⟨0x10000004, 0, 0⟩) ∧
    decodeTableWord 72 0x0_00000000_ABCDEF0_62 = some (.dReadOut ⟨0x2ABCDEF0, 0, 0⟩) ∧
    decodeTableWord 72 0x0_00000000_0000000_60 = some (.dReadUnm0 ⟨0x00000000, 0, 0⟩) ∧
    decodeTableWord 72 0x0_00000000_ABCDEF0_63 = some (.dReadUnm3 ⟨0x3ABCDEF0, 0, 0⟩) ∧
    decodeTableWord 72 0x0_00000000_0000000_65 = some (.dReadUnm4to7 ⟨0x50000000, 0, 0⟩) ∧
    decodeTableWord 72 0x0_00000000_FFFFFFF_6F = some (.dReadUnm8toF ⟨0xFFFFFFFF, 0, 0⟩) := by decide

/-- R68, the D_WRITE rows (V2, V3, V4). -/
theorem test_decode_writes :
    decodeTableWord 72 0x3_AABBCCDD_0000004_71 = some (.dWriteDs ⟨0x10000004, 0xAABBCCDD, 0b0011⟩) ∧
    decodeTableWord 72 0xF_00000007_0000000_72 = some (.dWriteOut ⟨0x20000000, 0x00000007, 0b1111⟩) ∧
    decodeTableWord 72 0xF_FFFFFFFF_0000000_70 = some (.dWriteUnm0 ⟨0x00000000, 0xFFFFFFFF, 0b1111⟩) ∧
    decodeTableWord 72 0xF_12345678_ABCDEF0_73 = some (.dWriteUnm3 ⟨0x3ABCDEF0, 0x12345678, 0b1111⟩) ∧
    decodeTableWord 72 0x0_00000001_0000000_76 = some (.dWriteUnm4to7 ⟨0x60000000, 0x1, 0⟩) ∧
    decodeTableWord 72 0x8_00000001_0000000_78 = some (.dWriteUnm8toF ⟨0x80000000, 0x1, 0b1000⟩) := by decide

/-- R68, the D_STRAY rows (V30, V31, V32). -/
theorem test_decode_strays :
    decodeTableWord 72 0xF_FFFFFFFF_0000000_51 = some (.dStrayDs ⟨0x10000000, 0xFFFFFFFF, 0b1111⟩) ∧
    decodeTableWord 72 0x0_00000001_0000000_52 = some (.dStrayOut ⟨0x20000000, 0x1, 0⟩) ∧
    decodeTableWord 72 0xF_00000001_0000000_50 = some (.dStrayUnm0 ⟨0x00000000, 0x1, 0b1111⟩) ∧
    decodeTableWord 72 0x0_00000000_0000000_53 = some (.dStrayUnm3 ⟨0x30000000, 0, 0⟩) ∧
    decodeTableWord 72 0x0_00000000_0000000_54 = some (.dStrayUnm4to7 ⟨0x40000000, 0, 0⟩) ∧
    decodeTableWord 72 0x0_00000000_0000000_5C = some (.dStrayUnm8toF ⟨0xC0000000, 0, 0⟩) := by decide

/-- The decoder's refusals, by name: too few bytes, the bit above the key, write data on the instruction segment. -/
theorem test_decode_refuses :
    decode [0x61, 0, 0, 0, 0, 0, 0, 0] = .error .truncated ∧
    decode [0xE1, 0, 0, 0, 0, 0, 0, 0, 0] = .error .reservedBit ∧
    decode [0x20, 0, 0, 0, 0x10, 0, 0, 0, 0] = .error .noSuchSignal ∧
    decode [0x20, 0, 0, 0, 0, 0, 0, 0, 0x10] = .error .noSuchSignal := by decide

/-- V40: how many of the 128 keys each group of rows takes. -/
theorem test_key_counts :
    ((List.range 128).countP fun k => decodeKey (BitVec.ofNat 7 k) == .iIdle) = 32 ∧
    ((List.range 128).countP fun k => decodeKey (BitVec.ofNat 7 k) == .dIdle) = 16 ∧
    ((List.range 128).countP fun k =>
      [Row.dStrayUnm0, .dStrayUnm3, .dStrayUnm4to7, .dStrayUnm8toF].contains (decodeKey (BitVec.ofNat 7 k))) = 14 := by decide

/-! ## WellFormed: an ill-formed term for each row's check -/

/-- Every row with a selector group refuses an address outside it. -/
theorem test_wf_refuses :
    ([.dReadDs ⟨0x20000000, 0, 0⟩, .dReadOut ⟨0x10000000, 0, 0⟩, .dReadUnm0 ⟨0x30000000, 0, 0⟩, .dReadUnm3 ⟨0x00000000, 0, 0⟩,
      .dReadUnm4to7 ⟨0x80000000, 0, 0⟩, .dReadUnm8toF ⟨0x70000000, 0, 0⟩,
      .dWriteDs ⟨0x00000000, 0, 0⟩, .dWriteOut ⟨0x30000000, 0, 0⟩, .dWriteUnm0 ⟨0x10000000, 0, 0⟩, .dWriteUnm3 ⟨0x20000000, 0, 0⟩,
      .dWriteUnm4to7 ⟨0x30000000, 0, 0⟩, .dWriteUnm8toF ⟨0x10000000, 0, 0⟩,
      .dStrayDs ⟨0xF0000000, 0, 0⟩, .dStrayOut ⟨0x00000000, 0, 0⟩, .dStrayUnm0 ⟨0x80000000, 0, 0⟩, .dStrayUnm3 ⟨0x40000000, 0, 0⟩,
      .dStrayUnm4to7 ⟨0x20000000, 0, 0⟩, .dStrayUnm8toF ⟨0x40000000, 0, 0⟩] : List Instr).all (fun i => !i.wf) = true := by
  decide

/-- The rows whose selector is "any" admit every selector. -/
theorem test_wf_any :
    ([.iIdle 0xFFFFFFFF, .iRead 0x10000000, .dIdle ⟨0x20000000, 0, 0⟩] : List Instr).all Instr.wf = true := by decide

/-! ## Operands -/

/-- V10. -/
theorem test_destOf : [0x00000000, 0x0FFFFFFF, 0x30000000, 0x3ABCDEF0, 0x70000000, 0x80000000, 0xFFFFFFFF].all
      (fun a => destOf a == .unmapped) = true ∧
    [0x10000000, 0x10000003, 0x1FFFFFFF].all (fun a => destOf a == .dataStore) = true ∧
    [0x20000000, 0x2FFFFFFF].all (fun a => destOf a == .outputRegister) = true := by decide

/-- V11. -/
theorem test_widx :
    widx 0x10000004 1024 = 1 ∧ widx 0x10000FFC 1024 = 1023 ∧ widx 0x10001000 1024 = 0 ∧ widx 0x00000007 1024 = 1 ∧
    widx 0xFFFFFFFC 1024 = 1023 ∧ widx 0x12345678 1024 = 414 ∧ widx 0x12345678 1 = 0 ∧
    widx 0x12345678 (2 ^ 26) = 0x008D159E ∧ widx 0x10000010 4 = 0 := by decide

/-- V12. -/
theorem test_merge : [0b0000, 0b0001, 0b0010, 0b0100, 0b0101, 0b1000, 0b1010, 0b1110, 0b1111].map
      (merge 0x11223344 0xAABBCCDD) =
    [0x11223344, 0x112233DD, 0x1122CC44, 0x11BB3344, 0x11BB33DD, 0xAA223344, 0xAA22CC44, 0xAABBCC44, 0xAABBCCDD] := by decide

/-! ## Construction (V13) -/

theorem test_loadImage :
    (loadImage [0x78, 0x56, 0x34, 0x12]).toOption = some [0x12345678] ∧ (loadImage [0xEF, 0xBE, 0xAD, 0xDE, 0x01]).toOption = none := by
  decide

/-- What a construction answers, comparably. -/
def answer (c : Config) : Option Refusal :=
  match construct c with
  | .refused r => some r
  | _ => none

theorem test_construct :
    answer ⟨⟨1000, 4, true⟩, []⟩ = some (.badDepth 1000) ∧ answer ⟨⟨4, 2 ^ 27, true⟩, []⟩ = some (.badDepth (2 ^ 27)) ∧
    answer ⟨⟨2, 2, true⟩, [1, 2, 3]⟩ = some (.imageTooLong 3 2) ∧ answer ⟨⟨1, 4, true⟩, [0xCAFEBABE]⟩ = none := by decide

/-! ## One step

`demo` is the fabric of 95_test_vectors.md's reference configuration with one data word and one input record. -/

/-- `DS[1]` preset, `OUT` preset, the next cycle's input. -/
def demo (ds1 out : Word) (x : Input) : State :=
  { State.reset with is := imageStore [0x00000013, 0x00000013], ds := putWord [] 1 ds1, out := out, script := [x] }

/-- A data request with the instruction segment idle at address 0. -/
def req (adr : Addr) (cyc we : Bool) (datW : Word) (sel : Mask) : Input := ⟨0, false, adr, cyc, we, datW, sel⟩

/-- An instruction request with the data segment idle at address 0. -/
def fetch (adr : Addr) (cyc : Bool) : Input := ⟨adr, cyc, 0, false, false, 0, 0⟩

/-- The state after the next cycle. -/
def after (s : State) : Option State :=
  match step s with
  | .next t => some t
  | _ => none

/-- V1, t = 2: the second image word; the request sets the pending bit and shows no ack itself. -/
theorem test_iRead : (after (demo 0 0 (fetch 0x00000004 true))).map (fun t => (t.iOut, t.ackI)) =
    some (some ⟨0x00000013, false⟩, true) := by decide

/-- V20: an idle cycle answers the pending request and clears the bit. -/
theorem test_iIdle : (after { demo 0 0 (fetch 0x00000004 false) with ackI := true }).map (fun t => (t.iOut, t.ackI)) =
    some (some ⟨0x00000013, true⟩, false) := by decide

/-- V27: the instruction segment does not decode the selector: 0x10000008 reads `IS[2]`, the padding. -/
theorem test_iRead_selector : (after (demo 7 9 (fetch 0x10000008 true))).map (fun t => t.iOut) =
    some (some ⟨0x00000000, false⟩) := by decide

/-- V21, V35: `d_dat_r` follows the address, write data is ignored. -/
theorem test_dIdle : (after (demo 0x0000CCDD 0 (req 0x10000004 false false 0xFFFFFFFF 0xF))).map
      (fun t => (t.dOut, memRead t.ds 1, t.ackD, t.faults)) =
    some (some ⟨0x0000CCDD, false⟩, 0x0000CCDD, false, []) := by decide

/-- V2, t = 3, V33: the wrapped address 0x10001004 reads `DS[1]`. -/
theorem test_dReadDs : (after (demo 0x0000CCDD 0 (req 0x10001004 true false 0 0))).map (fun t => (t.dOut, t.ackD)) =
    some (some ⟨0x0000CCDD, false⟩, true) := by decide

/-- V22, V37: `OUT` unchanged, the request acknowledged. -/
theorem test_dReadOut : (after (demo 0 7 (req 0x2ABCDEF0 true false 0 0))).map (fun t => (t.out, t.ackD)) =
    some (0x00000007, true) := by decide

/-- V4, t = 1. -/
theorem test_dReadUnm : [0x00000004, 0x3ABCDEF0, 0x50000004, 0x90000004].all (fun a =>
      (after (demo 5 7 (req a true false 0 0))).map (fun t => (t.dOut, t.ackD)) == some (some ⟨0, false⟩, true)) = true := by
  decide

/-- V2, t = 2, and V36: lanes by the mask, lane bits ignored; the write cycle shows the old word. -/
theorem test_dWriteDs : (after (demo 0x11223344 0 (req 0x10000006 true true 0xAABBCCDD 0b1100))).map
      (fun t => (t.dOut, memRead t.ds 1, memRead t.ds 0, t.ackD)) =
    some (some ⟨0x11223344, false⟩, 0xAABB3344, 0, true) := by decide

/-- The canonical form: writing zero over the only listed word leaves the empty store. -/
theorem test_dWriteDs_canonical : (after (demo 0x11223344 0 (req 0x10000004 true true 0 0xF))).map (fun t => t.ds) =
    some [] := by decide

/-- V3, V26, V29: the whole register whatever the mask and the offset; the indicator still shows the old bit. -/
theorem test_dWriteOut : (after (demo 0 2 (req 0x2FFFFFFC true true 0x00000003 0))).map
      (fun t => (t.out, t.indicator, t.indicatorNow, t.ackD)) = some (0x00000003, some false, some true, true) := by decide

/-- V4, V34. -/
theorem test_dWriteUnm : [0x00000004, 0x3ABCDEF0, 0x70000004, 0xF0000004].all (fun a =>
      (after (demo 5 7 (req a true true 0x12345678 0xF))).map (fun t => (t.dOut, memRead t.ds 1, t.out, t.ackD)) ==
        some (some ⟨0, false⟩, 5, 7, true)) = true := by decide

/-- V30: the fault is recorded, no ack follows, and the word is one of the two admitted ones. -/
theorem test_dStrayDs : ∃ t, after (demo 0 0 (req 0x10000004 false true 0xFFFFFFFF 0xF)) = some t ∧
    t.faults = [.strayWrite] ∧ t.ackD = false ∧ (memRead t.ds 1 = 0xFFFFFFFF ∨ memRead t.ds 1 = 0) := by
  refine ⟨_, rfl, by decide, rfl, ?_⟩
  show memRead (memWrite _ (Config.strayTakes 0) _ _ _) 1 = _ ∨ memRead (memWrite _ (Config.strayTakes 0) _ _ _) 1 = _
  cases Config.strayTakes 0 <;> decide

/-- V31. -/
theorem test_dStrayOut : ∃ t, after (demo 0 0 (req 0x20000000 false true 1 0)) = some t ∧
    t.faults = [.strayWrite] ∧ t.ackD = false ∧ (t.out = 1 ∨ t.out = 0) := by
  refine ⟨_, rfl, by decide, rfl, ?_⟩
  show (if Config.strayTakes 0 then (1 : Word) else 0) = 1 ∨ (if Config.strayTakes 0 then (1 : Word) else 0) = 0
  cases Config.strayTakes 0 <;> decide

/-- V32. -/
theorem test_dStrayUnm : [0x00000000, 0x30000000, 0x40000000, 0xF0000000].all (fun a =>
      (after (demo 5 7 (req a false true 1 0xF))).map (fun t => (t.faults, memRead t.ds 1, t.out, t.ackD)) ==
        some ([.strayWrite], 5, 7, false)) = true := by decide

/-- Every table row's word, placed after reset, is the first operation a step runs and leaves a next state. -/
theorem test_withFetchWord : opTable.all (fun r =>
    (after (State.reset.withFetchWord 8 r.pattern.toNat)).map (fun t => (t.ackI, t.ackD, t.faults.length)) ==
      some (!r.row.seg && r.row.cyc, r.row.seg && r.row.cyc, if r.row.we && !r.row.cyc then 1 else 0)) = true := by decide

/-! ## Witnesses: a state and operands that meet the hypotheses of each statement, at the boundaries of its clauses -/

/-- Operands at data address `a`. -/
def opsAt (a : Addr) : DOperands := ⟨a, 0xAABBCCDD, 0b0101⟩

/-- DecodeOfEncodeIsIdentity, PlacedWordRunsItsOperation: one operation of each segment, operands at their ends. -/
theorem witness_wf : (Instr.dWriteUnm8toF ⟨0xFFFFFFFF, 0xFFFFFFFF, 0xF⟩).wf = true ∧ (Instr.dStrayDs (opsAt 0x10000000)).wf = true ∧
    (Instr.iRead 0xFFFFFFFF).wf = true := by decide

/-- DecodedBytesEncodeBack: both clauses; the instruction-segment bytes have `K[4] = 1`. -/
theorem witness_decode :
    (∃ i, decode [0x71, 4, 0, 0, 0xD0, 0xCD, 0xBC, 0xAB, 0x3A] = .ok (i, []) ∧ i.row.seg = true) ∧
    (∃ i, decode [0x3F, 4, 0, 0, 0, 0, 0, 0, 0] = .ok (i, []) ∧ i.row.seg = false) :=
  ⟨⟨_, rfl, by decide⟩, ⟨_, rfl, by decide⟩⟩

/-- WordIndexIsAnAddressField, StorageIndicesWrap: the exponents' ends, two addresses with one offset, the largest depth. -/
theorem witness_widx : offset 0x1ABCDEF0 = offset 0xFABCDEF0 ∧ validDepth (2 ^ 26) = true ∧ validDepth 1 = true ∧
    widx 0xFFFFFFFF (2 ^ 1) = 1 ∧ widx 0xFFFFFFFF (2 ^ 26) = 2 ^ 26 - 1 := by decide

/-- DestinationDependsOnSelectorOnly: addresses with one selector; each clause of the chain. -/
theorem witness_selector : (0x2FFFFFFF : Addr).extractLsb' 28 4 = (0x20000000 : Addr).extractLsb' 28 4 ∧
    (0x1FFFFFFF : Addr).toNat / 2 ^ 28 = 1 ∧ (0x20000000 : Addr).toNat / 2 ^ 28 = 2 ∧ (0x30000000 : Addr).toNat / 2 ^ 28 = 3 := by
  decide

/-- WriteEnablesExclude: an unmapped address. -/
theorem witness_unmapped : destOf (req 0x0FFFFFFF true true 1 0xF).dAdr = .unmapped := by decide

/-- WritePortMergesOneWord, the data-store results and frames: a canonical store that is not empty, and the word's first and last
byte, the bytes beside it, a lane selected and one not. -/
theorem witness_ds :
    (demo 0x11223344 0 Input.nop).ds.wf = true ∧ widx (opsAt 0x10000004).adr 1024 = 1 ∧
    (demo 0x11223344 0 Input.nop).inDsWord 0x10000004 4 ∧ (demo 0x11223344 0 Input.nop).inDsWord 0x10000004 7 ∧
    ¬ (demo 0x11223344 0 Input.nop).inDsWord 0x10000004 3 ∧ ¬ (demo 0x11223344 0 Input.nop).inDsWord 0x10000004 8 ∧
    (opsAt 0).sel.getLsbD (7 % 4) = false ∧ (opsAt 0).sel.getLsbD (4 % 4) = true := by
  refine ⟨by decide, by decide, ?_, ?_, ?_, ?_, by decide, by decide⟩ <;> unfold State.inDsWord <;> decide

/-- DataIdleDrivesAndClearsAck: an address for each of its clauses, at the regions' ends. -/
theorem witness_dIdle : destOf 0x1FFFFFFF = .dataStore ∧ destOf 0x30000000 = .unmapped ∧ destOf 0x20000000 = .outputRegister := by
  decide

/-- The four-row results: a row of each list. -/
theorem witness_rows (o : DOperands) : Instr.dReadUnm8toF o ∈ [Instr.dReadUnm0 o, .dReadUnm3 o, .dReadUnm4to7 o, .dReadUnm8toF o] ∧
    Instr.dWriteUnm3 o ∈ [Instr.dWriteUnm0 o, .dWriteUnm3 o, .dWriteUnm4to7 o, .dWriteUnm8toF o] ∧
    Instr.dStrayUnm0 o ∈ [Instr.dStrayUnm0 o, .dStrayUnm3 o, .dStrayUnm4to7 o, .dStrayUnm8toF o] := by simp

/-- InstrSegmentFrame. -/
theorem witness_instrFrame : ∃ t, exec (.iRead 4) (demo 1 1 Input.nop) = .next t ∧
    Instr.iRead 4 ∈ [Instr.iIdle 4, .iRead 4] := ⟨_, rfl, by decide⟩

/-- NonStoringDataOperationsFrame: a read, the idle cycle and a discarded write. -/
theorem witness_nonStoringFrame :
    (∃ t, exec (.dReadDs (opsAt 0x10000004)) (demo 1 1 Input.nop) = .next t) ∧
    (∃ t, exec (.dIdle (opsAt 0x20000000)) (demo 1 1 Input.nop) = .next t) ∧
    (∃ t, exec (.dWriteUnm3 (opsAt 0x30000000)) (demo 1 1 Input.nop) = .next t) := ⟨⟨_, rfl⟩, ⟨_, rfl⟩, ⟨_, rfl⟩⟩

/-- DataStoreWriteFrame, OutputRegisterWriteFrame, StrayWriteFrame. -/
theorem witness_storingFrames : (demo 1 1 Input.nop).ds.wf = true ∧
    (∃ t, exec (.dWriteDs (opsAt 0x10000004)) (demo 1 1 Input.nop) = .next t) ∧
    (∃ t, exec (.dWriteOut (opsAt 0x20000000)) (demo 1 1 Input.nop) = .next t) ∧
    (∃ t, exec (.dStrayDs (opsAt 0x10000004)) (demo 1 1 Input.nop) = .next t) ∧
    (∃ t, exec (.dStrayUnm0 (opsAt 0x00000000)) (demo 1 1 Input.nop) = .next t) :=
  ⟨by decide, ⟨_, rfl⟩, ⟨_, rfl⟩, ⟨_, rfl⟩, ⟨_, rfl⟩⟩

/-- StepRunsDecodedOperations. -/
theorem witness_decodedOperations : iInstr (demo 0 0 (fetch 4 true)).currentInput = .iRead 4 ∧
    dInstr (demo 0 0 (fetch 4 true)).currentInput = .dIdle ⟨0, 0, 0⟩ := by decide

/-- SegmentOperationsCommute. -/
theorem witness_segments : (Instr.iRead 4).row.seg = false ∧ (Instr.dStrayOut (opsAt 0x20000000)).row.seg = true := by decide

/-- DrawsMatterOnlyWhereOpen: an input of each kind its clauses name. -/
theorem witness_draws : isStray (req 0x10000000 true true 1 1) = false ∧ destOf (req 0x10000000 true true 1 1).dAdr ≠ .outputRegister ∧
    isStray (req 0x20000000 true false 0 0) = false ∧ destOf (req 0x30000000 false true 0 0).dAdr ≠ .outputRegister := by decide

/-- ConstructionChecksInOrder: a configuration for each clause; the image's length at the boundary. -/
theorem witness_checks : validDepth 1000 = false ∧ validDepth (2 ^ 27) = false ∧ validDepth 0 = false ∧ validDepth 2 = true ∧
    2 < [(1 : Word), 2, 3].length ∧ [(1 : Word), 2].length ≤ 2 := by decide

/-- ConstructionEstablishesInv, ConstructedStateHoldsPaddedImage. -/
theorem witness_construct : ∃ s, construct ⟨⟨4, 1, false⟩, [1, 2, 3, 4]⟩ = .next s := ⟨_, rfl⟩

/-- LoaderGroupsLittleEndian: both clauses, the last word and lane. -/
theorem witness_loader : [(0xEF : Byte), 0xBE, 0xAD, 0xDE, 1].length % 4 ≠ 0 ∧ [(0x78 : Byte), 0x56, 0x34, 0x12].length % 4 = 0 ∧
    ([0x12345678] : List Word)[0]?.map (lane · 3) = some 0x12 := by decide

/-- LoadedBytesReachTheirLanes. -/
theorem witness_loaded : ∃ ws s, loadImage [0x78, 0x56, 0x34, 0x12] = .ok ws ∧ construct ⟨⟨1, 1, true⟩, ws⟩ = .next s :=
  ⟨_, _, rfl, rfl⟩

/-- FetchReturnsTheConstructionImage: a constructed fabric, one cycle that writes at selector 0x0, then a fetch. -/
theorem witness_fetch : ∃ s t u, construct ⟨⟨4, 4, true⟩, [1, 2, 3]⟩ = .next s ∧
    run 1 { s with script := [req 0x00000000 true true 0xFFFFFFFF 0xF, fetch 0x10000004 true] } = .next t ∧ step t = .next u :=
  ⟨_, _, _, rfl, rfl, rfl⟩

/-- EveryCycleKeepsInv, and the statements about any step (InstrReadDataEveryCycle, DataReadDataEveryCycle, AckMachinePerSegment,
OutChangesOnlyByItsWrite): a state with the invariant and a step that writes the store. -/
theorem witness_inv : (demo 1 1 (req 0x10000004 true true 0 0xF)).Inv ∧
    ∃ t, step (demo 1 1 (req 0x10000004 true true 0 0xF)) = .next t :=
  ⟨⟨by decide, by decide, by decide, by decide, by decide, by decide, by decide⟩, ⟨_, rfl⟩⟩

/-- OutChangesOnlyByItsWrite: a step within the contract that does change `OUT`. -/
theorem witness_out : ∃ t, step (demo 1 1 (req 0x2FFFFFFF true true 4 0)) = .next t ∧ t.out ≠ 1 ∧
    destOf 0x2FFFFFFF = .outputRegister := ⟨_, rfl, by decide, by decide⟩

/-- DataStoreWriteGating, WritePortNotTransparent, NextCycleReadSeesTheWrite: a write within the contract, then a read of an alias
of the same word. -/
theorem witness_writeRead : let s := { demo 0x11223344 0 (req 0x10000004 true true 0xAABBCCDD 0b0011) with
      script := [req 0x10000004 true true 0xAABBCCDD 0b0011, req 0x10001006 true false 0 0] }
    s.ds.wf = true ∧ isStray s.currentInput = false ∧ destOf s.currentInput.dAdr = .dataStore ∧ ∃ t u, step s = .next t ∧
      step t = .next u ∧ destOf t.currentInput.dAdr = .dataStore ∧ widx t.currentInput.dAdr 1024 = widx s.currentInput.dAdr 1024 :=
  ⟨by decide, by decide, by decide, _, _, rfl, rfl, by decide, by decide⟩

/-- UnmappedCycleChangesNoStorage: the two clauses, a discarded write and a stray one. -/
theorem witness_unmappedCycle : ∃ t u, step (demo 1 1 (req 0x0FFFFFFF true true 9 0xF)) = .next t ∧
    step (demo 1 1 (req 0x30000000 false true 9 0xF)) = .next u ∧ isStray (req 0x0FFFFFFF true true 9 0xF) = false :=
  ⟨_, _, rfl, rfl, by decide⟩

/-- HeldReadSamplesTheRequestedWord: both segments request and hold; a data-store and an unmapped address. -/
theorem witness_held : let x : Input := ⟨4, true, 0x10000004, true, false, 0, 0⟩
    let y : Input := ⟨4, true, 0x30000004, true, false, 0, 0⟩
    (∃ t u, step { demo 5 0 x with script := [x, x] } = .next t ∧ step t = .next u ∧ t.currentInput.dAdr = x.dAdr ∧
      t.currentInput.iAdr = x.iAdr ∧ destOf x.dAdr = .dataStore) ∧
    (∃ t u, step { demo 5 0 y with script := [y, y] } = .next t ∧ step t = .next u ∧ t.currentInput.dAdr = y.dAdr ∧
      destOf y.dAdr = .unmapped) :=
  ⟨⟨_, _, rfl, rfl, by decide, by decide, by decide⟩, ⟨_, _, rfl, rfl, by decide, by decide⟩⟩

/-- IndicatorFollowsOutOneCycleLater: a write of `OUT` on a fabric with an indicator. -/
theorem witness_indicator : let x := req 0x20000000 true true 1 0
    (demo 0 0 x).params.hasIndicator = true ∧ ∃ t u, step { demo 0 0 x with script := [x, x] } = .next t ∧ step t = .next u :=
  ⟨rfl, _, _, rfl, rfl⟩

/-- RepeatedWriteIsIdempotent: a write held for two cycles. -/
theorem witness_repeated : let x := req 0x10000004 true true 0xAABBCCDD 0b0101
    (demo 0 0 x).ds.wf = true ∧ ∃ t u, step { demo 0 0 x with script := [x, x] } = .next t ∧ step t = .next u ∧
      sameDataInput x t.currentInput := ⟨by decide, _, _, rfl, rfl, by unfold sameDataInput; decide⟩

/-- AcksAreRequestsOneCycleLater, FaultsRecordStrayCyclesForever: no ack pending, the contract kept, a run of one stray cycle. -/
theorem witness_run : State.reset.ackD = false ∧ State.reset.contractKept ∧
    ∃ t, run 1 (demo 0 0 (req 0x00000000 false true 0 0)) = .next t ∧ isStray ((demo 0 0 (req 0x00000000 false true 0 0)).inputAt 0) = true :=
  ⟨rfl, by unfold State.contractKept; decide, _, rfl, by decide⟩

/-- InstrSegmentIsIsolated, DataSegmentIsIsolated: two fabrics that differ in what the other segment holds and is asked. -/
theorem witness_isolated :
    sameInstrView (demo 1 2 (req 0x10000004 true true 9 0xF)) (demo 3 4 (req 0x20000000 false true 9 0xF)) ∧
    sameInstrInput ((demo 1 2 (req 0x10000004 true true 9 0xF)).inputAt 0) ((demo 3 4 (req 0x20000000 false true 9 0xF)).inputAt 0) ∧
    sameDataView (demo 1 2 (fetch 0 true)) { demo 1 2 (fetch 4 false) with is := [] } ∧
    sameDataInput ((demo 1 2 (fetch 0 true)).inputAt 0) (({ demo 1 2 (fetch 4 false) with is := [] } : State).inputAt 0) ∧
    (∃ t u, run 1 (demo 1 2 (fetch 0 true)) = .next t ∧ run 1 { demo 1 2 (fetch 4 false) with is := [] } = .next u) := by
  refine ⟨?_, ?_, ?_, ?_, _, _, rfl, rfl⟩
  · unfold sameInstrView; decide
  · unfold sameInstrInput; decide
  · unfold sameDataView; decide
  · unfold sameDataInput; decide

end Sys2Proof.Tests
end

section
/-! PROOFS. The invariant of R7, R20 and R29: each part of a cycle keeps it, so the whole cycle does. Only the data segment's part
reaches what the invariant speaks of; a word index in range (R42, R90) is why its write stays inside the store. -/

namespace Sys2Proof.Machine

open Sys2Proof

theorem State.Inv.beginCycle {s : State} (h : s.Inv) : s.beginCycle.Inv := { h with }

theorem State.Inv.iCycle {s : State} (h : s.Inv) (datR : Word) (cyc : Bool) : (s.iCycle datR cyc).Inv := { h with }

theorem State.Inv.endCycle {s : State} (h : s.Inv) : s.endCycle.Inv := { h with }

/-- Whatever the data segment does, stray writes included, the invariant stays. -/
theorem State.Inv.dataEffect {s : State} (h : s.Inv) (x : Input) : (dataEffect x s).Inv where
  idepth_valid := by simpa using h.idepth_valid
  ddepth_valid := by simpa using h.ddepth_valid
  is_wf := by simpa using h.is_wf
  is_within := by simpa using h.is_within
  ds_wf := by
    rw [dataEffect_ds]
    exact memWrite_wf h.ds_wf
  ds_within := by
    rw [dataEffect_ds, dataEffect_params]
    exact memWrite_within h.ds_within (widx_lt h.ddepth_valid)
  faults_nodup := by
    rw [dataEffect_faults]
    split
    case isTrue => exact addFault_nodup h.faults_nodup
    case isFalse => exact h.faults_nodup

/-- Settles O40: the four parts of a cycle (`step_compose`) each keep the invariant. -/
theorem everyCycleKeepsInv : Obligations.EveryCycleKeepsInv := by
  intro s t h hstep
  rw [step_compose] at hstep
  cases hstep
  exact ((h.beginCycle.iCycle _ _).dataEffect _).endCycle

end Sys2Proof.Machine
end

section
/-! PROOFS. What construction puts into the state (R23, R32, R180, R181), and reset as its instance for the reference parameters and an
empty image (R184). -/

namespace Sys2Proof.Machine

open Sys2Proof

@[simp] theorem lane_zero (i : Nat) : lane 0#32 i = 0#8 := by simp [lane]

/-- R48: in a sequence of words laid out as bytes, byte `4k + i` is lane `i` of word `k`; past the end both are zero. -/
theorem getD_flatMap_wordBytes (ws : List Word) :
    ∀ {k i : Nat}, i < 4 → (ws.flatMap wordBytes).getD (4 * k + i) 0 = lane (ws.getD k 0) i := by
  induction ws with
  | nil => intro k i _; simp
  | cons w ws ih =>
    intro k i hi
    rw [List.flatMap_cons]
    cases k with
    | zero =>
      obtain rfl | rfl | rfl | rfl : i = 0 ∨ i = 1 ∨ i = 2 ∨ i = 3 := by omega
      all_goals rfl
    | succ k =>
      have hlen : (wordBytes w).length = 4 := rfl
      rw [List.getD_append_right _ _ _ _ (by omega), hlen, show 4 * (k + 1) + i - 4 = 4 * k + i by omega, ih hi,
        List.getD_cons_succ]

/-- Every byte of the image's store: lane `i` of word `k` of the image, zero beyond it. -/
theorem read_imageStore (image : List Word) {k i : Nat} (hi : i < 4) :
    (imageStore image).read (4 * k + i) = lane (image.getD k 0) i := by
  rw [imageStore, Memory.read_ofBytes _ (Nat.zero_le _), Nat.sub_zero, getD_flatMap_wordBytes image hi]

/-- R23, R181: the instruction store's words are the image's, zero beyond it. -/
@[simp] theorem memRead_imageStore (image : List Word) (k : Nat) : memRead (imageStore image) k = image.getD k 0 := by
  have h0 := read_imageStore image (k := k) (i := 0) (by omega)
  rw [Nat.add_zero] at h0
  rw [memRead, h0, read_imageStore image (by omega), read_imageStore image (by omega), read_imageStore image (by omega),
    ofLanes_lane]

/-- Settles O42: a construction that succeeds answers `initialState`, whose only listed bytes are the image's. -/
theorem constructedStateHoldsPaddedImage : Obligations.ConstructedStateHoldsPaddedImage := by
  intro c s h
  obtain ⟨_, _, _, rfl⟩ := construct_eq_next h
  exact ⟨rfl, memRead_imageStore c.image, memRead_nil, rfl, rfl, rfl, rfl⟩

/-- R180, the converse of `construct_eq_next`: legal depths and a fitting image give a machine. -/
theorem construct_of_checks {c : Config} (hi : validDepth c.params.idepth = true) (hd : validDepth c.params.ddepth = true)
    (hlen : c.image.length ≤ c.params.idepth) : construct c = .next (initialState c) := by
  simp [construct, hi, hd, Nat.not_lt.mpr hlen]

/-- R7: the reference depths are legal. -/
theorem reference_depths_valid :
    validDepth Params.reference.idepth = true ∧ validDepth Params.reference.ddepth = true := by decide

/-- Settles O37: the reference parameters and an empty image pass the checks, and what they construct is `State.reset`; its
words, by O42, are the empty image's padding. -/
theorem resetIsTheConstructedState : Obligations.ResetIsTheConstructedState := by
  have hreset : construct ⟨Params.reference, []⟩ = .next State.reset :=
    construct_of_checks reference_depths_valid.1 reference_depths_valid.2 (Nat.zero_le _)
  obtain ⟨_, his, hds, hout, hackI, hackD, hfaults⟩ := constructedStateHoldsPaddedImage _ _ hreset
  exact ⟨hreset, fun k => ⟨his k, hds k⟩, hout, hackI, hackD, hfaults, rfl⟩

/-- Settles O38: the reference depths are legal, and the empty stores and the empty fault set are canonical and in bounds. -/
theorem resetSatisfiesInv : Obligations.ResetSatisfiesInv where
  idepth_valid := reference_depths_valid.1
  ddepth_valid := reference_depths_valid.2
  is_wf := reset_wf.1
  ds_wf := reset_wf.2
  is_within := rfl
  ds_within := rfl
  faults_nodup := List.nodup_nil

end Sys2Proof.Machine
end

section
/-! PROOFS. The state after a cycle as a function, field by field, and runs and traces as its iterates (R154, R160). A field read off
`State.afterCycle` says what a whole cycle does to it, in terms of the pre-edge state and the cycle's input record. -/

namespace Sys2Proof.Machine

open Sys2Proof

/-- R154: the state that the cycle with the current input record leaves. -/
def State.afterCycle (s : State) : State :=
  (dataEffect s.currentInput
    (s.beginCycle.iCycle (s.iReadData s.currentInput.iAdr) s.currentInput.iCyc)).endCycle

theorem step_eq (s : State) : step s = .next s.afterCycle := step_compose s

theorem step_eq_next {s t : State} : step s = .next t ↔ t = s.afterCycle := by
  rw [step_eq, Host.Outcome.next.injEq, eq_comm]

section
variable (s : State)

@[simp] theorem State.afterCycle_params : s.afterCycle.params = s.params := by simp [afterCycle]
@[simp] theorem State.afterCycle_is : s.afterCycle.is = s.is := by simp [afterCycle]
@[simp] theorem State.afterCycle_ds : s.afterCycle.ds =
    memWrite s.ds (dsWe s.currentInput && (!isStray s.currentInput || s.strayTakes))
      (widx s.currentInput.dAdr s.params.ddepth) s.currentInput.dSel s.currentInput.dDatW := by simp [afterCycle]
@[simp] theorem State.afterCycle_out : s.afterCycle.out =
    if outWe s.currentInput && (!isStray s.currentInput || s.strayTakes) then s.currentInput.dDatW else s.out := by
  simp [afterCycle]
@[simp] theorem State.afterCycle_ackI : s.afterCycle.ackI = s.currentInput.iCyc := by simp [afterCycle]
@[simp] theorem State.afterCycle_ackD : s.afterCycle.ackD = s.currentInput.dCyc := by simp [afterCycle]
@[simp] theorem State.afterCycle_faults : s.afterCycle.faults =
    if isStray s.currentInput then addFault .strayWrite s.faults else s.faults := by simp [afterCycle]
@[simp] theorem State.afterCycle_cycle : s.afterCycle.cycle = s.cycle + 1 := by simp [afterCycle]
@[simp] theorem State.afterCycle_script : s.afterCycle.script = s.script.tail := by simp [afterCycle]
@[simp] theorem State.afterCycle_iOut :
    s.afterCycle.iOut = some ⟨s.iReadData s.currentInput.iAdr, s.ackI⟩ := by simp [afterCycle]
@[simp] theorem State.afterCycle_dOut :
    s.afterCycle.dOut = some ⟨s.dReadData s.currentInput.dAdr, s.ackD⟩ := by simp [afterCycle]
@[simp] theorem State.afterCycle_indicator : s.afterCycle.indicator = s.indicatorNow := by simp [afterCycle]

/-- The inputs of the next state are the later inputs of this one. -/
@[simp] theorem inputAt_afterCycle (k : Nat) : s.afterCycle.inputAt k = s.inputAt (k + 1) := by
  rw [← inputAt_endCycle]
  exact inputAt_congr (by simp) (by simp) k

end

/-! ## Runs -/

/-- R160: a run of `n` cycles answers the `n`-th iterate, from every state. -/
theorem run_eq (n : Nat) : ∀ s : State, run n s = .next (State.afterCycle^[n] s) := by
  induction n with
  | zero => exact run_zero
  | succ n ih =>
    intro s
    rw [run_succ, step_eq, andThen_next, ih, Function.iterate_succ_apply]

theorem run_eq_next {n : Nat} {s t : State} : run n s = .next t ↔ t = State.afterCycle^[n] s := by
  rw [run_eq, Host.Outcome.next.injEq, eq_comm]

theorem iTrace_eq (n : Nat) : ∀ s : State,
    iTrace n s = (List.range n).map fun k => (State.afterCycle^[k + 1] s).iOut := by
  induction n with
  | zero => intro s; rfl
  | succ n ih =>
    intro s
    have hcons : iTrace (n + 1) s = s.afterCycle.iOut :: iTrace n s.afterCycle := by simp only [iTrace, step_eq]
    rw [hcons, ih, List.range_succ_eq_map, List.map_cons, List.map_map]
    rfl

theorem dTrace_eq (n : Nat) : ∀ s : State,
    dTrace n s = (List.range n).map fun k => (State.afterCycle^[k + 1] s).dOut := by
  induction n with
  | zero => intro s; rfl
  | succ n ih =>
    intro s
    have hcons : dTrace (n + 1) s = s.afterCycle.dOut :: dTrace n s.afterCycle := by simp only [dTrace, step_eq]
    rw [hcons, ih, List.range_succ_eq_map, List.map_cons, List.map_map]
    rfl

/-- The input record after `n` cycles is the one `n` cycles from now. -/
theorem currentInput_iterate (n : Nat) : ∀ s : State, (State.afterCycle^[n] s).currentInput = s.inputAt n := by
  induction n with
  | zero => exact fun s => (inputAt_zero s).symm
  | succ n ih => intro s; rw [Function.iterate_succ_apply, ih, inputAt_afterCycle]

/-- What every cycle keeps, every run keeps. -/
theorem iterate_keeps {α : Type} (f : State → α) (h : ∀ s : State, f s.afterCycle = f s) (n : Nat) (s : State) :
    f (State.afterCycle^[n] s) = f s := by
  induction n with
  | zero => rfl
  | succ n ih => rw [Function.iterate_succ_apply', h, ih]

/-- The induction of an isolation claim: what agrees in two states, and agrees after a cycle with inputs that agree, agrees
all along two runs whose inputs agree. -/
theorem iterate_related {R : State → State → Prop} {I : Input → Input → Prop}
    (hcycle : ∀ s s' : State, R s s' → I s.currentInput s'.currentInput → R s.afterCycle s'.afterCycle)
    {n : Nat} {s s' : State} (h : R s s') (hin : ∀ k, k < n → I (s.inputAt k) (s'.inputAt k)) :
    ∀ k, k ≤ n → R (State.afterCycle^[k] s) (State.afterCycle^[k] s') := by
  intro k
  induction k with
  | zero => exact fun _ => h
  | succ k ih =>
    intro hk
    rw [Function.iterate_succ_apply', Function.iterate_succ_apply']
    refine hcycle _ _ (ih (by omega)) ?_
    rw [currentInput_iterate, currentInput_iterate]
    exact hin k hk

end Sys2Proof.Machine
end

section
/-! PROOFS. The instruction store is never written, so fetches keep returning the image; and neither segment sees the other (R54, R57). -/

namespace Sys2Proof.Machine

open Sys2Proof

/-- Settles O45: no cycle changes the instruction store or the parameters, so the word the port reads is the one that
construction placed there. -/
theorem fetchReturnsTheConstructionImage : Obligations.FetchReturnsTheConstructionImage := by
  intro c s0 xs n t u hc hrun hstep
  obtain ⟨_, _, _, rfl⟩ := construct_eq_next hc
  obtain rfl := run_eq_next.mp hrun
  obtain rfl := step_eq_next.mp hstep
  have his : (State.afterCycle^[n] { initialState c with script := xs }).is = imageStore c.image :=
    iterate_keeps State.is State.afterCycle_is n _
  have hparams : (State.afterCycle^[n] { initialState c with script := xs }).params = c.params :=
    iterate_keeps State.params State.afterCycle_params n _
  refine ⟨his, ?_⟩
  rw [State.afterCycle_iOut, State.iReadData, his, hparams, memRead_imageStore]

/-- R54: the instruction segment's half of a cycle reads `IDEPTH`, `IS`, `ACK_I` and its own two inputs. -/
theorem sameInstrView_afterCycle (s s' : State) (h : sameInstrView s s')
    (hin : sameInstrInput s.currentInput s'.currentInput) : sameInstrView s.afterCycle s'.afterCycle := by
  obtain ⟨hdepth, his, hack, _⟩ := h
  obtain ⟨hadr, hcyc⟩ := hin
  refine ⟨by simpa using hdepth, by simpa using his, by simpa using hcyc, ?_⟩
  simp [State.iReadData, hdepth, his, hack, hadr]

/-- Settles O59: the instruction-side views agree all along the two runs. -/
theorem instrSegmentIsIsolated : Obligations.InstrSegmentIsIsolated := by
  intro n s s' t t' h hin hrun hrun'
  obtain rfl := run_eq_next.mp hrun
  obtain rfl := run_eq_next.mp hrun'
  have hviews := iterate_related sameInstrView_afterCycle h hin
  refine ⟨hviews n le_rfl, ?_⟩
  rw [iTrace_eq, iTrace_eq]
  refine List.map_congr_left fun k hk => ?_
  obtain ⟨_, _, _, hout⟩ := hviews (k + 1) (List.mem_range.mp hk)
  exact hout

/-- R112, R113, R164: the write enables and the contract's breach are a matter of the data segment's inputs. -/
theorem sameDataInput_enables {x y : Input} (h : sameDataInput x y) :
    isStray x = isStray y ∧ dsWe x = dsWe y ∧ outWe x = outWe y := by
  obtain ⟨hadr, hcyc, hwe, _, _⟩ := h
  simp only [isStray, dsWe, outWe, hadr, hcyc, hwe, and_self]

/-- R54: the data segment's half of a cycle reads `DDEPTH`, `DS`, `OUT`, `ACK_D`, `FAULTS`, the cycle's free values and its
own five inputs. -/
theorem sameDataView_afterCycle (s s' : State) (h : sameDataView s s')
    (hin : sameDataInput s.currentInput s'.currentInput) : sameDataView s.afterCycle s'.afterCycle := by
  obtain ⟨hdepth, hds, hout, hack, hfaults, hcycle, _⟩ := h
  obtain ⟨hstray, hdsWe, houtWe⟩ := sameDataInput_enables hin
  obtain ⟨hadr, hcyc, _, hdat, hsel⟩ := hin
  have htakes : s.strayTakes = s'.strayTakes := by simp only [State.strayTakes, hcycle]
  have hread : s.dReadData s.currentInput.dAdr = s'.dReadData s'.currentInput.dAdr := by
    simp only [State.dReadData, State.dsReadData, State.outReadData, hds, hdepth, hcycle, hadr]
  refine ⟨?_, ?_, ?_, ?_, ?_, ?_, ?_⟩
  · rwa [State.afterCycle_params, State.afterCycle_params]
  · simp only [State.afterCycle_ds, hds, hdsWe, hstray, htakes, hadr, hdepth, hsel, hdat]
  · simp only [State.afterCycle_out, houtWe, hstray, htakes, hdat, hout]
  · simpa using hcyc
  · simp only [State.afterCycle_faults, hstray, hfaults]
  · simpa using hcycle
  · simp only [State.afterCycle_dOut, hread, hack]

/-- Settles O60: the data-side views, the cycle number among them, agree all along the two runs. -/
theorem dataSegmentIsIsolated : Obligations.DataSegmentIsIsolated := by
  intro n s s' t t' h hin hrun hrun'
  obtain rfl := run_eq_next.mp hrun
  obtain rfl := run_eq_next.mp hrun'
  have hviews := iterate_related sameDataView_afterCycle h hin
  refine ⟨hviews n le_rfl, ?_⟩
  rw [dTrace_eq, dTrace_eq]
  refine List.map_congr_left fun k hk => ?_
  obtain ⟨_, _, _, _, _, _, hout⟩ := hviews (k + 1) (List.mem_range.mp hk)
  exact hout

end Sys2Proof.Machine
end

section
/-! PROOFS. The word index as a field of the address (R42), and the two address bits that nothing reads (R49). -/

namespace Sys2Proof.Machine

open Sys2Proof

/-- R42: the index in numbers. -/
theorem widx_eq_div_mod (a : Addr) (d : Nat) : widx a d = a.toNat / 4 % d := by
  rw [widx, BitVec.toNat_ushiftRight, Nat.shiftRight_eq_div_pow]

/-- R42: at a depth of `2^k` words the index is the `k` address bits from bit 2 on. -/
theorem widx_two_pow (a : Addr) (k : Nat) : widx a (2 ^ k) = (a.extractLsb' 2 k).toNat := by
  rw [BitVec.extractLsb'_toNat, widx, BitVec.toNat_ushiftRight]

/-- R7, R42: a legal depth's index bits lie below the selector. -/
theorem extractLsb'_offset (a : Addr) {k : Nat} (hk : k ≤ 26) :
    (offset a).extractLsb' 2 k = a.extractLsb' 2 k := by
  refine BitVec.eq_of_getLsbD_eq fun j hj => ?_
  have hlow : 2 + j < 28 := by omega
  simp [offset, hj, hlow]

/-- Settles O6: the index is an address field, and for a legal depth a field of the address bits below the selector. -/
theorem wordIndexIsAnAddressField : Obligations.WordIndexIsAnAddressField := by
  refine ⟨widx_eq_div_mod, fun a k _ _ => widx_two_pow a k, fun a => Nat.mod_one _, fun a b k hk hoff => ?_⟩
  rw [widx_two_pow, widx_two_pow, ← extractLsb'_offset a hk, ← extractLsb'_offset b hk, hoff]

/-- R49: clearing bits 1..0 changes no bit from bit 2 on. -/
theorem ushiftRight_clearLow (a : Addr) : (a &&& 0xFFFFFFFC#32) >>> 2 = a >>> 2 := by
  have hones : 0xFFFFFFFC#32 >>> 2 = BitVec.allOnes 32 >>> 2 := by decide
  rw [BitVec.ushiftRight_and_distrib, hones, ← BitVec.ushiftRight_and_distrib, BitVec.and_allOnes]

@[simp] theorem widx_clearLow (a : Addr) (d : Nat) : widx (a &&& 0xFFFFFFFC#32) d = widx a d := by
  rw [widx, ushiftRight_clearLow, widx]

@[simp] theorem selector_clearLow (a : Addr) : selector (a &&& 0xFFFFFFFC#32) = selector a := by
  have hones : (0xFFFFFFFC#32).extractLsb' 28 4 = BitVec.allOnes 4 := by decide
  rw [selector, BitVec.extractLsb'_and, hones, BitVec.and_allOnes, selector]

@[simp] theorem destOf_clearLow (a : Addr) : destOf (a &&& 0xFFFFFFFC#32) = destOf a := by
  rw [destOf, selector_clearLow, destOf]

section
variable (x : Input) (s : State)

@[simp] theorem dsWe_clearLaneBits : dsWe (clearLaneBits x) = dsWe x := by simp [dsWe, clearLaneBits]
@[simp] theorem outWe_clearLaneBits : outWe (clearLaneBits x) = outWe x := by simp [outWe, clearLaneBits]
@[simp] theorem iCyc_clearLaneBits : (clearLaneBits x).iCyc = x.iCyc := rfl
@[simp] theorem dCyc_clearLaneBits : (clearLaneBits x).dCyc = x.dCyc := rfl
@[simp] theorem dDatW_clearLaneBits : (clearLaneBits x).dDatW = x.dDatW := rfl
@[simp] theorem dSel_clearLaneBits : (clearLaneBits x).dSel = x.dSel := rfl
@[simp] theorem isStray_clearLaneBits : isStray (clearLaneBits x) = isStray x := rfl
@[simp] theorem widx_iAdr_clearLaneBits (d : Nat) : widx (clearLaneBits x).iAdr d = widx x.iAdr d := widx_clearLow _ d
@[simp] theorem widx_dAdr_clearLaneBits (d : Nat) : widx (clearLaneBits x).dAdr d = widx x.dAdr d := widx_clearLow _ d
@[simp] theorem destOf_dAdr_clearLaneBits : destOf (clearLaneBits x).dAdr = destOf x.dAdr := destOf_clearLow _

/-- The listed input record comes first. -/
@[simp] theorem currentInput_cons (rest : List Input) : ({ s with script := x :: rest } : State).currentInput = x := rfl

end

/-- Settles O36: each field of the next state reads an address through its word index and its destination only. -/
theorem laneBitsOfAddressIgnored : Obligations.LaneBitsOfAddressIgnored := by
  intro s x rest
  rw [step_eq, step_eq, Host.Outcome.next.injEq]
  apply State.ext
  case ds => simp [State.strayTakes]
  case out => simp [State.strayTakes]
  case faults => rw [State.afterCycle_faults, State.afterCycle_faults, currentInput_cons, currentInput_cons,
    isStray_clearLaneBits]
  case iOut => simp [State.iReadData]
  case dOut => simp [State.dReadData, State.dsReadData, State.outReadData]
  case indicator => simp [State.indicatorNow]
  all_goals simp

end Sys2Proof.Machine
end

section
/-! PROOFS. What the operations that store nothing leave alone: every one of them is its segment's `State.iCycle` or
`State.dCycle`, which drives a word and latches the ack bit (R52, R54, R101, R114). -/

namespace Sys2Proof.Machine

open Sys2Proof

/-- R120, R121: an instruction-segment operation drives its word and latches its ack bit. -/
theorem exec_instrSegment {a : Addr} {i : Instr} (hi : i ∈ [Instr.iIdle a, .iRead a]) (s : State) :
    ∃ cyc, exec i s = .next (s.iCycle (s.iReadData a) cyc) := by
  simp only [List.mem_cons, List.not_mem_nil, or_false] at hi
  rcases hi with rfl | rfl
  · exact ⟨false, rfl⟩
  · exact ⟨true, rfl⟩

/-- Settles O25: `State.iCycle` writes `ACK_I` and the record of what was driven, and no other field. -/
theorem instrSegmentFrame : Obligations.InstrSegmentFrame := by
  intro a s t i hi h
  obtain ⟨cyc, hexec⟩ := exec_instrSegment hi s
  obtain rfl : s.iCycle (s.iReadData a) cyc = t := by simpa [hexec] using h
  exact ⟨rfl, fun _ => rfl, fun _ => rfl, rfl, rfl, rfl, rfl, rfl, rfl, rfl⟩

/-- R122-R125, R128: a data-segment operation that stores nothing drives a word and latches its ack bit. -/
theorem exec_nonStoring {o : DOperands} {i : Instr}
    (hi : i ∈ [Instr.dIdle o, .dReadDs o, .dReadOut o, .dReadUnm0 o, .dReadUnm3 o, .dReadUnm4to7 o, .dReadUnm8toF o,
      .dWriteUnm0 o, .dWriteUnm3 o, .dWriteUnm4to7 o, .dWriteUnm8toF o]) (s : State) :
    ∃ datR cyc, exec i s = .next (s.dCycle datR cyc) := by
  simp only [List.mem_cons, List.not_mem_nil, or_false] at hi
  rcases hi with rfl | rfl | rfl | rfl | rfl | rfl | rfl | rfl | rfl | rfl | rfl <;> exact ⟨_, _, rfl⟩

/-- Settles O26: `State.dCycle` writes `ACK_D` and the record of what was driven, and no other field. -/
theorem nonStoringDataOperationsFrame : Obligations.NonStoringDataOperationsFrame := by
  intro o s t i hi h
  obtain ⟨datR, cyc, hexec⟩ := exec_nonStoring hi s
  obtain rfl : s.dCycle datR cyc = t := by simpa [hexec] using h
  exact ⟨⟨rfl, fun _ => rfl, rfl, rfl, rfl, rfl, rfl⟩, fun _ => rfl, rfl, rfl⟩

end Sys2Proof.Machine
end

section
/-! PROOFS. A loaded byte stream in the instruction store (R48, R182). -/

namespace Sys2Proof.Machine

open Sys2Proof

/-- R48: the bytes of a word built from its lanes. -/
@[simp] theorem wordBytes_ofLanes (b0 b1 b2 b3 : Byte) : wordBytes (ofLanes b0 b1 b2 b3) = [b0, b1, b2, b3] := by
  simp [wordBytes]

/-- R182: a stream of whole words is the bytes of the words it groups into. -/
theorem flatMap_wordBytes_imageWords :
    ∀ {bytes : List Byte}, bytes.length % 4 = 0 → (imageWords bytes).flatMap wordBytes = bytes
  | [], _ => rfl
  | [_], h | [_, _], h | [_, _, _], h => absurd h (by simp)
  | b0 :: b1 :: b2 :: b3 :: rest, h => by
    have hrest : rest.length % 4 = 0 := by simp only [List.length_cons] at h; omega
    rw [imageWords, List.flatMap_cons, wordBytes_ofLanes, flatMap_wordBytes_imageWords hrest]
    rfl

/-- R182, D9: the loader accepts exactly the streams of whole words. -/
theorem loadImage_eq_ok {bytes : List Byte} {ws : List Word} :
    loadImage bytes = .ok ws ↔ bytes.length % 4 = 0 ∧ imageWords bytes = ws := by
  unfold loadImage
  split <;> simp_all

/-- Settles O44: laid out as bytes again, the loaded words are the stream. -/
theorem loadedBytesReachTheirLanes : Obligations.LoadedBytesReachTheirLanes := by
  intro bytes ws p s hload hc n
  obtain ⟨hlen, rfl⟩ := loadImage_eq_ok.mp hload
  obtain ⟨_, _, _, rfl⟩ := construct_eq_next hc
  have his : (initialState ⟨p, imageWords bytes⟩).is = Memory.ofBytes 0 bytes := by
    rw [initialState, imageStore, flatMap_wordBytes_imageWords hlen]
  rw [his, Memory.read_ofBytes _ (Nat.zero_le n), Nat.sub_zero]

end Sys2Proof.Machine
end

section
/-! PROOFS. Writing the same word again (R52, R93). -/

namespace Sys2Proof.Machine

open Sys2Proof

/-- A lane that already holds the merged value keeps it under the same merge. -/
theorem mergeLane_of_lane_eq {old v w : Word} {m : Mask} {i : Nat} (h : lane w i = mergeLane old v m i) :
    mergeLane w v m i = mergeLane old v m i := by
  unfold mergeLane at h ⊢
  split <;> simp_all

/-- R93: the merge is idempotent. -/
theorem merge_merge_same (old v : Word) (m : Mask) : merge (merge old v m) v m = merge old v m := by
  obtain ⟨h0, h1, h2, h3⟩ := lane_merge old v m
  rw [merge, mergeLane_of_lane_eq h0, mergeLane_of_lane_eq h1, mergeLane_of_lane_eq h2, mergeLane_of_lane_eq h3, ← merge]

theorem putWord_putWord_same {m : Memory} (h : m.wf = true) (idx : Nat) (w : Word) :
    putWord (putWord m idx w) idx w = putWord m idx w := by
  refine Memory.ext_memRead (putWord_wf (putWord_wf h)) (putWord_wf h) fun k => ?_
  rw [memRead_putWord _ _ _ (putWord_wf h), memRead_putWord _ _ _ h]
  split <;> rfl

/-- R52: the write port, used twice with the same request, leaves what it leaves once. -/
theorem memWrite_memWrite_same {ds : Memory} (h : ds.wf = true) (en : Bool) (idx : Nat) (m : Mask) (v : Word) :
    memWrite (memWrite ds en idx m v) en idx m v = memWrite ds en idx m v := by
  cases en with
  | false => rfl
  | true =>
    simp only [memWrite, if_true]
    rw [memRead_putWord _ _ _ h, if_pos rfl, merge_merge_same, putWord_putWord_same h]

/-- R164: a cycle with a request is within the contract. -/
theorem isStray_eq_false {x : Input} (h : x.dCyc = true) : isStray x = false := by simp [isStray, h]

/-- Settles O57: both cycles use the same port with the same enable, index, mask and word. -/
theorem repeatedWriteIsIdempotent : Obligations.RepeatedWriteIsIdempotent := by
  intro s t u hwf hst htu _ hcyc hin
  obtain rfl := step_eq_next.mp hst
  obtain rfl := step_eq_next.mp htu
  have hstray : isStray s.currentInput = false := isStray_eq_false hcyc
  obtain ⟨hstray', hdsWe, houtWe⟩ := sameDataInput_enables hin
  obtain ⟨hadr, _, _, hdat, hsel⟩ := hin
  constructor
  · rw [State.afterCycle_ds, ← hstray', ← hdsWe, ← hadr, ← hsel, ← hdat, State.afterCycle_params, State.afterCycle_ds, hstray]
    exact memWrite_memWrite_same hwf _ _ _ _
  · rw [State.afterCycle_out, ← hstray', ← houtWe, ← hdat, State.afterCycle_out, hstray]
    cases outWe s.currentInput <;> rfl

end Sys2Proof.Machine
end

section
/-! PROOFS. An operation as the request that makes it: its segment, its `cyc` and `we` bits and its operand values. The input record of
a cycle and the byte frame both carry a request, and both read the operation off it by its key (R67, R68). -/

namespace Sys2Proof

/-- R67, R68: the operation that the operation map gives a request. -/
def Instr.ofRequest (seg cyc we : Bool) (o : DOperands) : Instr :=
  .ofRow (decodeKey (mkKey seg cyc we (selector o.adr))) o

theorem iInstr_eq_ofRequest (x : Input) : iInstr x = .ofRequest false x.iCyc false ⟨x.iAdr, 0, 0⟩ := rfl

theorem dInstr_eq_ofRequest (x : Input) : dInstr x = .ofRequest true x.dCyc x.dWe ⟨x.dAdr, x.dDatW, x.dSel⟩ := rfl

/-! ## The fixed fields of the row of a key -/

theorem readRow_fields (g : Group) : (readRow g).seg = true ∧ (readRow g).cyc = true ∧ (readRow g).we = false ∧
    (readRow g).group = some g := by
  cases g <;> decide

theorem writeRow_fields (g : Group) : (writeRow g).seg = true ∧ (writeRow g).cyc = true ∧ (writeRow g).we = true ∧
    (writeRow g).group = some g := by
  cases g <;> decide

theorem strayRow_fields (g : Group) : (strayRow g).seg = true ∧ (strayRow g).cyc = false ∧ (strayRow g).we = true ∧
    (strayRow g).group = some g := by
  cases g <;> decide

/-- R67, R68: a key's row has the key's bits, but for the `we` bit that the instruction segment does not have, and admits the
key's selector. -/
theorem decodeKey_mkKey_fields (seg cyc we : Bool) (sel : Selector) :
    let r := decodeKey (mkKey seg cyc we sel)
    r.seg = seg ∧ r.cyc = cyc ∧ r.we = (seg && we) ∧ (r.group = none ∨ r.group = some (groupOf sel)) := by
  rw [decodeKey_mkKey]
  match seg, cyc, we with
  | false, false, _ | false, true, _ | true, false, false => exact ⟨rfl, rfl, rfl, .inl rfl⟩
  | true, true, false => simp [readRow_fields]
  | true, true, true => simp [writeRow_fields]
  | true, false, true => simp [strayRow_fields]

/-- An instruction-segment operation has no write enable, no write data and no byte-select (R60). -/
theorem Instr.fields_of_instrSegment {i : Instr} (h : i.row.seg = false) :
    i.row.we = false ∧ i.operands = ⟨i.operands.adr, 0, 0⟩ := by
  cases i with
  | iIdle | iRead => exact ⟨rfl, rfl⟩
  | _ => cases h

/-! ## The operation of a request -/

section
variable (seg cyc we : Bool) (o : DOperands)

@[simp] theorem Instr.ofRequest_seg : (ofRequest seg cyc we o).row.seg = seg := by
  simp [ofRequest, decodeKey_mkKey_fields]

@[simp] theorem Instr.ofRequest_cyc : (ofRequest seg cyc we o).row.cyc = cyc := by
  simp [ofRequest, decodeKey_mkKey_fields]

@[simp] theorem Instr.ofRequest_we : (ofRequest seg cyc we o).row.we = (seg && we) := by
  simp [ofRequest, decodeKey_mkKey_fields]

@[simp] theorem Instr.ofRequest_operands :
    (ofRequest seg cyc we o).operands = if seg then o else ⟨o.adr, 0, 0⟩ := by
  simp [ofRequest, operands_ofRow, decodeKey_mkKey_fields]

/-- A request that asks for no signal its segment lacks keeps its operand values. -/
theorem Instr.ofRequest_operands_self {seg : Bool} {o : DOperands} (cyc we : Bool)
    (h : seg = false → o.datW = 0 ∧ o.sel = 0) : (ofRequest seg cyc we o).operands = o := by
  rw [ofRequest_operands]
  cases seg with
  | true => rfl
  | false =>
    obtain ⟨hdatW, hsel⟩ := h rfl
    rw [← hdatW, ← hsel]
    rfl

@[simp] theorem Instr.ofRequest_adr : (ofRequest seg cyc we o).operands.adr = o.adr := by
  rw [ofRequest_operands]; split <;> rfl

/-- The key of a request's operation is the request's, with `K[4]` cleared on the instruction segment (R69). -/
@[simp] theorem Instr.ofRequest_key : (ofRequest seg cyc we o).key = mkKey seg cyc (seg && we) (selector o.adr) := by
  rw [key, ofRequest_adr, ofRequest_seg, ofRequest_cyc, ofRequest_we]

/-- R68: the operation map gives every request a well-formed operation. -/
theorem Instr.ofRequest_wf : (ofRequest seg cyc we o).wf = true := by
  obtain ⟨-, -, -, hany | hgroup⟩ := decodeKey_mkKey_fields seg cyc we (selector o.adr)
  · simp [wf, ofRequest, hany]
  · rw [wf, ofRequest_adr, ofRequest, row_ofRow, hgroup]
    exact beq_self_eq_true _

end

/-- R67, R68: the key of a well-formed operation decodes to the operation's row. -/
theorem Instr.decodeKey_key {i : Instr} (h : i.wf = true) : decodeKey i.key = i.row := by
  revert h
  cases i
  exacts [Laws.KeyRoundTrip.iIdle _, Laws.KeyRoundTrip.iRead _, Laws.KeyRoundTrip.dIdle _,
    Laws.KeyRoundTrip.dReadDs _, Laws.KeyRoundTrip.dReadOut _, Laws.KeyRoundTrip.dReadUnm0 _,
    Laws.KeyRoundTrip.dReadUnm3 _, Laws.KeyRoundTrip.dReadUnm4to7 _, Laws.KeyRoundTrip.dReadUnm8toF _,
    Laws.KeyRoundTrip.dWriteDs _, Laws.KeyRoundTrip.dWriteOut _, Laws.KeyRoundTrip.dWriteUnm0 _,
    Laws.KeyRoundTrip.dWriteUnm3 _, Laws.KeyRoundTrip.dWriteUnm4to7 _, Laws.KeyRoundTrip.dWriteUnm8toF _,
    Laws.KeyRoundTrip.dStrayDs _, Laws.KeyRoundTrip.dStrayOut _, Laws.KeyRoundTrip.dStrayUnm0 _,
    Laws.KeyRoundTrip.dStrayUnm3 _, Laws.KeyRoundTrip.dStrayUnm4to7 _, Laws.KeyRoundTrip.dStrayUnm8toF _]

/-- A well-formed operation is the operation of its own request. -/
theorem Instr.ofRequest_self {i : Instr} (h : i.wf = true) :
    ofRequest i.row.seg i.row.cyc i.row.we i.operands = i := by
  change ofRow (decodeKey i.key) i.operands = i
  rw [decodeKey_key h, ofRow_row_operands]

/-- Settles O3: both operations are operations of a request that the input record writes out. -/
theorem cycleOperationsKeepEverySignal : Obligations.CycleOperationsKeepEverySignal := by
  intro x
  rw [iInstr_eq_ofRequest, dInstr_eq_ofRequest]
  refine ⟨Instr.ofRequest_wf .., Instr.ofRequest_wf .., ?_, ?_, ?_⟩
  · rw [Instr.ofRequest_key]; rfl
  · rw [Instr.ofRequest_key]; rfl
  · simp

/-- Settles O4: the 128 keys, one by one. -/
theorem operationMapIsAPartition : Obligations.OperationMapIsAPartition := by
  unfold Obligations.OperationMapIsAPartition
  decide

end Sys2Proof
end

section
/-! PROOFS. The byte frame: what its fields hold, what it decodes to, and that encoding and decoding undo each other (R67-R69, R72;
the frame is the model's, notes/assumptions/1.md). -/

namespace Sys2Proof

/-! ## Bytes of a frame -/

/-- The first byte of appended bytes. -/
theorem extractLsb'_append_lowByte {v : Nat} (hi : BitVec v) (lo : Byte) : (hi ++ lo).extractLsb' 0 8 = lo :=
  BitVec.extractLsb'_append_eq_right

/-- The later bytes of appended bytes. -/
theorem extractLsb'_append_highByte {v : Nat} (hi : BitVec v) (lo : Byte) {j : Nat} (h : 8 ≤ j) :
    (hi ++ lo).extractLsb' j 8 = hi.extractLsb' (j - 8) 8 := BitVec.extractLsb'_append_eq_of_le h

/-- A frame put together from nine bytes has those bytes. -/
theorem frameBytes_append (b0 b1 b2 b3 b4 b5 b6 b7 b8 : Byte) :
    frameBytes (b8 ++ b7 ++ b6 ++ b5 ++ b4 ++ b3 ++ b2 ++ b1 ++ b0) = [b0, b1, b2, b3, b4, b5, b6, b7, b8] := by
  simp [frameBytes, extractLsb'_append_lowByte, extractLsb'_append_highByte]

/-- The lowest byte of a frame comes first, and the others do not depend on it. -/
theorem frameBytes_append_lowByte (hi : BitVec 64) (lo : Byte) :
    frameBytes (hi ++ lo) = lo :: (frameBytes (hi ++ (0 : Byte))).tail := by
  simp [frameBytes, extractLsb'_append_lowByte, extractLsb'_append_highByte]

/-! ## The fields of a frame -/

/-- The frame that holds the given operand values and key. -/
def frameOf (o : DOperands) (k : Key) : BitVec 72 := o.sel ++ o.datW ++ offset o.adr ++ (0 : BitVec 1) ++ k

theorem encodeFrame_eq_frameOf (i : Instr) : encodeFrame i = frameOf i.operands i.key := rfl

section
variable (o : DOperands) (k : Key)

theorem frameOf_key : (frameOf o k).extractLsb' 0 7 = k := BitVec.extractLsb'_append_eq_right

theorem frameOf_pad : (frameOf o k).getLsbD 7 = false := by
  rw [frameOf, BitVec.getLsbD_append, BitVec.getLsbD_append]
  rfl

theorem frameOf_offset : (frameOf o k).extractLsb' 8 28 = offset o.adr :=
  (BitVec.extractLsb'_append_eq_of_le (by decide)).trans <|
    (BitVec.extractLsb'_append_eq_of_le (by decide)).trans BitVec.extractLsb'_append_eq_right

theorem frameOf_datW : (frameOf o k).extractLsb' 36 32 = o.datW :=
  (BitVec.extractLsb'_append_eq_of_le (by decide)).trans <|
    (BitVec.extractLsb'_append_eq_of_le (by decide)).trans <|
      (BitVec.extractLsb'_append_eq_of_le (by decide)).trans BitVec.extractLsb'_append_eq_right

theorem frameOf_sel : (frameOf o k).extractLsb' 68 4 = o.sel :=
  (BitVec.extractLsb'_append_eq_of_le (by decide)).trans <|
    (BitVec.extractLsb'_append_eq_of_le (by decide)).trans <|
      (BitVec.extractLsb'_append_eq_of_le (by decide)).trans BitVec.extractLsb'_append_eq_left

/-- The key stands in a frame's first byte, below a zero bit; the other bytes are the operands'. -/
theorem frameBytes_frameOf : ∃ tail, ∀ k : Key, frameBytes (frameOf o k) = ((0 : BitVec 1) ++ k) :: tail := by
  refine ⟨(frameBytes ((o.sel ++ o.datW ++ offset o.adr) ++ (0 : Byte))).tail, fun k => ?_⟩
  have hlow : frameOf o k = (o.sel ++ o.datW ++ offset o.adr) ++ ((0 : BitVec 1) ++ k : Byte) := BitVec.append_assoc
  rw [hlow]
  exact frameBytes_append_lowByte _ _

end

/-- R67: a key is built from its fields. -/
theorem mkKey_of_fields (k : Key) : mkKey (k.getLsbD 6) (k.getLsbD 5) (k.getLsbD 4) (k.extractLsb' 0 4) = k := by
  revert k; decide

/-- A frame whose padding bit is clear holds a request. -/
theorem exists_frameOf {f : BitVec 72} (h : f.getLsbD 7 = false) :
    ∃ seg cyc we o, f = frameOf o (mkKey seg cyc we (selector o.adr)) := by
  have hpad : (0 : BitVec 1) = f.extractLsb' 7 1 := by
    refine BitVec.eq_of_getLsbD_eq fun j hj => ?_
    obtain rfl : j = 0 := by omega
    simpa using h.symm
  let key : Key := f.extractLsb' 0 7
  refine ⟨key.getLsbD 6, key.getLsbD 5, key.getLsbD 4,
    ⟨key.extractLsb' 0 4 ++ f.extractLsb' 8 28, f.extractLsb' 36 32, f.extractLsb' 68 4⟩, ?_⟩
  rw [selector_append, mkKey_of_fields, frameOf, offset_append, hpad]
  iterate 4 rw [BitVec.extractLsb'_append_extractLsb'_eq_extractLsb' (by rfl)]
  exact BitVec.extractLsb'_eq_self.symm

/-! ## Decoding -/

/-- The decoder on the frame of a request. -/
theorem decodeFrame_frameOf (seg cyc we : Bool) (o : DOperands) :
    decodeFrame (frameOf o (mkKey seg cyc we (selector o.adr))) =
      if seg = false ∧ ¬(o.datW = 0 ∧ o.sel = 0) then .error .noSuchSignal else .ok (.ofRequest seg cyc we o) := by
  obtain ⟨hseg, -⟩ := decodeKey_mkKey_fields seg cyc we (selector o.adr)
  obtain ⟨-, -, -, hsel⟩ := mkKey_fields seg cyc we (selector o.adr)
  simp only [decodeFrame, frameOf_key, frameOf_pad, frameOf_offset, frameOf_datW, frameOf_sel, hseg, hsel,
    selector_append_offset, Bool.false_eq_true, if_false, Instr.ofRequest]

/-- What a frame decodes to: the operation of the request it holds, which on the instruction segment has no write data and no
byte-select. -/
theorem decodeFrame_eq_ok {f : BitVec 72} {i : Instr} : decodeFrame f = .ok i ↔
    ∃ seg cyc we o, f = frameOf o (mkKey seg cyc we (selector o.adr)) ∧ (seg = false → o.datW = 0 ∧ o.sel = 0) ∧
      .ofRequest seg cyc we o = i := by
  constructor
  · intro h
    have hpad : f.getLsbD 7 = false := by
      by_contra hset
      rw [Bool.not_eq_false] at hset
      simp only [decodeFrame, hset, if_true] at h
      cases h
    obtain ⟨seg, cyc, we, o, rfl⟩ := exists_frameOf hpad
    rw [decodeFrame_frameOf] at h
    split at h
    · cases h
    · next hzero => exact ⟨seg, cyc, we, o, rfl, by simpa using hzero, by simpa using h⟩
  · rintro ⟨seg, cyc, we, o, rfl, hzero, rfl⟩
    rw [decodeFrame_frameOf, if_neg fun h => h.2 (hzero h.1)]

/-- Bytes are too few, or they begin with a frame's. -/
theorem decode_truncated_or_frame (bytes : List Byte) :
    decode bytes = .error .truncated ∨ ∃ f rest, bytes = frameBytes f ++ rest := by
  unfold decode
  split
  · exact .inr ⟨_, _, by rw [frameBytes_append]; rfl⟩
  · exact .inl rfl

/-- What bytes decode to: the first nine are those of a frame that decodes, the others are left over. -/
theorem decode_eq_ok {bytes : List Byte} {i : Instr} {rest : List Byte} : decode bytes = .ok (i, rest) ↔
    ∃ f, bytes = frameBytes f ++ rest ∧ decodeFrame f = .ok i := by
  constructor
  · intro h
    obtain htrunc | ⟨f, rest', rfl⟩ := decode_truncated_or_frame bytes
    · simp [htrunc] at h
    · rw [decode_frameBytes] at h
      cases hf : decodeFrame f with
      | error e => simp [hf] at h
      | ok j =>
        obtain ⟨rfl, rfl⟩ : j = i ∧ rest' = rest := by simpa [hf] using h
        exact ⟨f, rfl, hf⟩
  · rintro ⟨f, rfl, hf⟩
    rw [decode_frameBytes, hf]

/-! ## The round trips -/

/-- Settles O1: the frame of a well-formed operation holds the operation's own request. -/
theorem decodeOfEncodeIsIdentity : Obligations.DecodeOfEncodeIsIdentity := by
  intro i rest hwf
  refine decode_eq_ok.mpr ⟨encodeFrame i, rfl, decodeFrame_eq_ok.mpr
    ⟨i.row.seg, i.row.cyc, i.row.we, i.operands, rfl, fun hseg => ?_, Instr.ofRequest_self hwf⟩⟩
  rw [(Instr.fields_of_instrSegment hseg).2]
  exact ⟨rfl, rfl⟩

/-- R69: the key bit `K[4]` of the instruction segment, cleared in a frame's first byte. -/
theorem firstByte_clear_we (cyc we : Bool) (sel : Selector) :
    ((0 : BitVec 1) ++ mkKey false cyc we sel) &&& 0xEF = (0 : BitVec 1) ++ mkKey false cyc false sel := by
  revert cyc we sel; decide

/-- Settles O2: bytes that decode hold a request, and the frame of its operation is theirs but for `K[4]`. -/
theorem decodedBytesEncodeBack : Obligations.DecodedBytesEncodeBack := by
  intro bytes i rest h
  obtain ⟨f, rfl, hf⟩ := decode_eq_ok.mp h
  obtain ⟨seg, cyc, we, o, rfl, hzero, rfl⟩ := decodeFrame_eq_ok.mp hf
  have henc : encode (.ofRequest seg cyc we o) = frameBytes (frameOf o (mkKey seg cyc (seg && we) (selector o.adr))) := by
    rw [encode, encodeFrame_eq_frameOf, Instr.ofRequest_key, Instr.ofRequest_operands_self cyc we hzero]
  obtain ⟨tail, htail⟩ := frameBytes_frameOf o
  rw [henc, Instr.ofRequest_seg]
  refine ⟨Instr.ofRequest_wf .., ?_, ?_⟩
  · rintro rfl; rfl
  · rintro rfl
    refine ⟨_, tail ++ rest, by rw [htail]; rfl, ?_⟩
    rw [htail, firstByte_clear_we]
    rfl

/-- Settles O5: each word holds a request, the last one a set padding bit. -/
theorem tableWordsDecode : Obligations.TableWordsDecode := by
  unfold Obligations.TableWordsDecode
  decide

end Sys2Proof
end

section
/-! PROOFS. A step as the two operations of its input record, and a table word placed as the next request (R67, R72, R110). -/

namespace Sys2Proof.Machine

open Sys2Proof

/-- Settles O30: a step is the cycle with the current input record. -/
theorem stepRunsDecodedOperations : Obligations.StepRunsDecodedOperations := by
  rintro s _ _ rfl rfl
  rfl

/-- The word of a well-formed operation is that operation. -/
theorem decodeTableWord_encodeFrame {i : Instr} (h : i.wf = true) :
    decodeTableWord 72 (encodeFrame i).toNat = some i := by
  have hdec := decodeOfEncodeIsIdentity i [] h
  have hlt : (encodeFrame i).toNat < 2 ^ 72 := (encodeFrame i).isLt
  rw [List.append_nil, encode] at hdec
  rw [decodeTableWord, Nat.mod_eq_of_lt hlt, if_pos hlt, BitVec.ofNat_toNat, BitVec.setWidth_eq, hdec]

/-- A placed data-segment operation runs beside an idle instruction segment. -/
theorem operations_toInput_dataSegment {i : Instr} (hwf : i.wf = true) (hseg : i.row.seg = true) :
    iInstr i.toInput = .iIdle 0 ∧ dInstr i.toInput = i := by
  have hreq := Instr.ofRequest_self hwf
  rw [hseg] at hreq
  rw [iInstr_eq, dInstr_eq_ofRequest, Instr.toInput, if_pos hseg]
  exact ⟨rfl, hreq⟩

/-- A placed instruction-segment operation runs beside an idle data segment. -/
theorem operations_toInput_instrSegment {i : Instr} (hwf : i.wf = true) (hseg : i.row.seg = false) :
    iInstr i.toInput = i ∧ dInstr i.toInput = .dIdle ⟨0, 0, 0⟩ := by
  obtain ⟨hwe, hops⟩ := Instr.fields_of_instrSegment hseg
  have hreq := Instr.ofRequest_self hwf
  rw [hseg, hwe, hops] at hreq
  rw [iInstr_eq_ofRequest, dInstr_eq, Instr.toInput, if_neg (by simp [hseg])]
  exact ⟨hreq, rfl⟩

/-- Settles O31: the placed word's request stands first in the list of inputs. -/
theorem placedWordRunsItsOperation : Obligations.PlacedWordRunsItsOperation := by
  intro s i hwf
  simp only [State.withFetchWord, decodeTableWord_encodeFrame hwf, State.placeInstr]
  split
  · next hseg =>
    obtain ⟨hi, hd⟩ := operations_toInput_dataSegment hwf hseg
    exact stepRunsDecodedOperations _ _ _ hi hd
  · next hseg =>
    obtain ⟨hi, hd⟩ := operations_toInput_instrSegment hwf (by simpa using hseg)
    exact stepRunsDecodedOperations _ _ _ hi hd

end Sys2Proof.Machine
end

section
/-! PROOFS. The address decoder: the selector as a number (R64), the destination it names (R80, R81), and the one destination that a
write enable needs (R83, R112, R113). -/

namespace Sys2Proof.Machine

open Sys2Proof

/-- R64: bits 31..28 are an address's top bits, so the selector is a quotient with nothing cut off. -/
theorem toNat_selector (a : Addr) : (selector a).toNat = a.toNat / 2 ^ 28 := by
  have hlt : a.toNat / 2 ^ 28 < 2 ^ 4 := Nat.div_lt_of_lt_mul a.isLt
  rw [selector, BitVec.extractLsb'_toNat, Nat.shiftRight_eq_div_pow, Nat.mod_eq_of_lt hlt]

/-- R80: the data store's selector, as a number. -/
theorem selector_eq_selDataStore_iff (a : Addr) : selector a = selDataStore ↔ a.toNat / 2 ^ 28 = 1 := by
  rw [← toNat_selector]
  exact BitVec.toNat_inj.symm

/-- R80: the output register's selector, as a number. -/
theorem selector_eq_selOutputRegister_iff (a : Addr) : selector a = selOutputRegister ↔ a.toNat / 2 ^ 28 = 2 := by
  rw [← toNat_selector]
  exact BitVec.toNat_inj.symm

/-- R80: the decoder reads an address through its selector. -/
theorem destOf_congr {a b : Addr} (h : selector a = selector b) : destOf a = destOf b := by
  rw [destOf, h, destOf]

/-- Settles O8: the decoder compares the selector with two named values, and the selector is the number in bits 31..28. -/
theorem destinationDependsOnSelectorOnly : Obligations.DestinationDependsOnSelectorOnly := by
  refine ⟨fun a => ?_, fun a b h => destOf_congr h⟩
  simp only [destOf, selector_eq_selDataStore_iff, selector_eq_selOutputRegister_iff]

/-- R112: the data store is written only at one of its own addresses. -/
theorem dsWe_eq_true_iff (x : Input) : dsWe x = true ↔ destOf x.dAdr = .dataStore ∧ x.dWe = true := by
  rw [dsWe, Bool.and_eq_true, decide_eq_true_iff]

/-- R113: the output register is written only at one of its own addresses. -/
theorem outWe_eq_true_iff (x : Input) : outWe x = true ↔ destOf x.dAdr = .outputRegister ∧ x.dWe = true := by
  rw [outWe, Bool.and_eq_true, decide_eq_true_iff]

/-- Settles O9: either enable fixes the destination, and an address has one destination. -/
theorem writeEnablesExclude : Obligations.WriteEnablesExclude := by
  intro x
  simp only [← Bool.not_eq_true, dsWe_eq_true_iff, outWe_eq_true_iff]
  constructor
  · rintro ⟨⟨hds, _⟩, hout, _⟩
    exact absurd (hds.symm.trans hout) (by decide)
  · intro hunmapped
    simp [hunmapped]

end Sys2Proof.Machine
end

section
/-! PROOFS. Storage indices wrap at a legal depth (R98): the index is a remainder by the store's size in bytes, which divides the size
of the address space (R7, R42). -/

namespace Sys2Proof.Machine

open Sys2Proof

/-- R7: a store of legal depth fits into the 32-bit address space a whole number of times. -/
theorem validDepth_dvd {d : Nat} (h : validDepth d = true) : 4 * d ∣ 2 ^ 32 := by
  simp only [validDepth, List.any_eq_true, List.mem_range, beq_iff_eq] at h
  obtain ⟨k, hk, rfl⟩ := h
  have hbytes : 4 * 2 ^ k = 2 ^ (2 + k) := (Nat.pow_add 2 2 k).symm
  rw [hbytes]
  exact Nat.pow_dvd_pow 2 (by omega)

/-- R42: the index as the word number inside the store's address range. -/
theorem widx_eq_mod_div (a : Addr) (d : Nat) : widx a d = a.toNat % (4 * d) / 4 := by
  rw [widx_eq_div_mod, Nat.mod_mul_right_div_self]

/-- Settles O7: neither the added multiple of the store's size nor the wrap at 32 bits changes the remainder by that size. -/
theorem storageIndicesWrap : Obligations.StorageIndicesWrap := by
  intro a d j hd
  have hrem : (a + BitVec.ofNat 32 (4 * d * j)).toNat % (4 * d) = a.toNat % (4 * d) := by
    rw [BitVec.toNat_add, BitVec.toNat_ofNat, Nat.add_mod_mod, Nat.mod_mod_of_dvd _ (validDepth_dvd hd),
      Nat.add_mul_mod_self_left]
  rw [widx_eq_mod_div, hrem, ← widx_eq_mod_div]

end Sys2Proof.Machine
end

section
/-! PROOFS. The byte merge (R93), as a law about lanes and, from it, about bits; its consequences are read off the bits. -/

namespace Sys2Proof.Machine

open Sys2Proof

/-- R47: a bit of a word is a bit of one of its lanes. -/
theorem getLsbD_eq_getLsbD_lane (w : Word) (j : Nat) : w.getLsbD j = (lane w (j / 8)).getLsbD (j % 8) := by
  have hlow : j % 8 < 8 := Nat.mod_lt _ (by decide)
  rw [lane_getLsbD, decide_eq_true hlow, Bool.true_and, Nat.div_add_mod]

/-- R93: `lane_merge` for a lane number that is not a numeral. -/
theorem lane_merge_of_lt (old v : Word) (m : Mask) {i : Nat} (hi : i < 4) :
    lane (merge old v m) i = mergeLane old v m i := by
  obtain ⟨h0, h1, h2, h3⟩ := lane_merge old v m
  interval_cases i
  · exact h0
  · exact h1
  · exact h2
  · exact h3

/-- R93: the merge bit by bit. -/
theorem getLsbD_merge (old v : Word) (m : Mask) {j : Nat} (hj : j < 32) :
    (merge old v m).getLsbD j = if m.getLsbD (j / 8) then v.getLsbD j else old.getLsbD j := by
  have hlane : j / 8 < 4 := Nat.div_lt_of_lt_mul hj
  rw [getLsbD_eq_getLsbD_lane, lane_merge_of_lt old v m hlane, getLsbD_eq_getLsbD_lane v, getLsbD_eq_getLsbD_lane old,
    mergeLane]
  split <;> rfl

/-- R93: the expanded mask is what a merge of ones into zero leaves. -/
theorem maskWord_eq_merge (m : Mask) : maskWord m = merge 0#32 (BitVec.allOnes 32) m := by
  have hones : ∀ i < 4, lane (BitVec.allOnes 32) i = 0xFF#8 := by decide
  simp only [maskWord, merge, mergeLane, lane_zero, hones, Nat.reduceLT, BitVec.ofNat_eq_ofNat]

theorem getLsbD_maskWord (m : Mask) {j : Nat} (hj : j < 32) : (maskWord m).getLsbD j = m.getLsbD (j / 8) := by
  rw [maskWord_eq_merge, getLsbD_merge _ _ _ hj, BitVec.getLsbD_allOnes, decide_eq_true hj, BitVec.getLsbD_zero]
  cases m.getLsbD (j / 8) <;> rfl

/-- R93: the merge as a formula over whole words. -/
theorem merge_eq_masked (old v : Word) (m : Mask) : merge old v m = (v &&& maskWord m) ||| (old &&& ~~~ maskWord m) := by
  refine BitVec.eq_of_getLsbD_eq fun j hj => ?_
  rw [getLsbD_merge _ _ _ hj, BitVec.getLsbD_or, BitVec.getLsbD_and, BitVec.getLsbD_and, BitVec.getLsbD_not,
    getLsbD_maskWord m hj]
  cases m.getLsbD (j / 8) <;> simp [hj]

/-- Settles O10: the law of the merged bits, and the formula that has the same bits. -/
theorem mergeTakesSelectedLanes : Obligations.MergeTakesSelectedLanes :=
  fun old v m => ⟨fun _ hj => getLsbD_merge old v m hj, merge_eq_masked old v m⟩

/-- R93: the empty mask keeps the old word. -/
theorem merge_empty (old v : Word) : merge old v 0 = old := by
  refine BitVec.eq_of_getLsbD_eq fun j hj => ?_
  simp [getLsbD_merge _ _ _ hj]

/-- R93: the full mask replaces the old word. -/
theorem merge_full (old v : Word) : merge old v 0xF = v := by
  have hset : ∀ i < 4, (0xF : Mask).getLsbD i = true := by decide
  refine BitVec.eq_of_getLsbD_eq fun j hj => ?_
  rw [getLsbD_merge _ _ _ hj, hset (j / 8) (Nat.div_lt_of_lt_mul hj), if_pos rfl]

/-- R93: two merges in a row are one merge, in which the later word wins where both masks select. -/
theorem merge_merge (old v1 v2 : Word) (m1 m2 : Mask) :
    merge (merge old v1 m1) v2 m2 = merge old (merge v1 v2 m2) (m1 ||| m2) := by
  refine BitVec.eq_of_getLsbD_eq fun j hj => ?_
  simp only [getLsbD_merge _ _ _ hj, BitVec.getLsbD_or]
  cases m2.getLsbD (j / 8) <;> simp

/-- Settles O11: the four consequences, one lemma each. -/
theorem mergeIdempotentAndComposes : Obligations.MergeIdempotentAndComposes :=
  fun old v v1 v2 m m1 m2 => ⟨merge_empty old v, merge_full old v, merge_merge_same old v m, merge_merge old v1 v2 m1 m2⟩

end Sys2Proof.Machine
end

section
/-! PROOFS. The data store's ports (R90, R92, R94): what the write port leaves, by word and by byte, and from it the frame of D_WRITE_DS
and the read and the write of one cycle. -/

namespace Sys2Proof.Machine

open Sys2Proof

/-- R92: the word that any index reads as after the write port was used. -/
theorem memRead_memWrite {ds : Memory} (h : ds.wf = true) (en : Bool) (idx k : Nat) (m : Mask) (v : Word) :
    memRead (memWrite ds en idx m v) k = if en = true ∧ k = idx then merge (memRead ds idx) v m else memRead ds k := by
  obtain ⟨rfl, hwrite⟩ | ⟨rfl, hwrite⟩ := memWrite_cases ds en idx m v <;> rw [hwrite]
  · simp
  · simp [memRead_putWord _ _ _ h]

/-- Settles O12: with the enable off the store is the old one; with it on, one whole word is replaced by the merge. -/
theorem writePortMergesOneWord : Obligations.WritePortMergesOneWord :=
  fun _ en idx k m v h => memRead_memWrite h en idx k m v

/-- R48: `lane_of_memRead` for a lane number that is not a numeral. -/
theorem lane_memRead_of_lt (m : Memory) (idx : Nat) {i : Nat} (hi : i < 4) :
    lane (memRead m idx) i = m.read (4 * idx + i) := by
  obtain ⟨h0, h1, h2, h3⟩ := lane_of_memRead m idx
  interval_cases i
  · exact h0
  · exact h1
  · exact h2
  · exact h3

/-- R48: a byte of a store is a lane of its word. -/
theorem read_eq_lane_memRead (m : Memory) (a : Nat) : m.read a = lane (memRead m (a / 4)) (a % 4) := by
  rw [lane_memRead_of_lt _ _ (Nat.mod_lt _ (by decide)), Nat.div_add_mod]

/-- R92: the byte that any address reads as after the write port was used: it is replaced if the write is enabled, reaches its word
and selects its lane. -/
theorem read_memWrite {ds : Memory} (h : ds.wf = true) (en : Bool) (idx a : Nat) (m : Mask) (v : Word) :
    (memWrite ds en idx m v).read a =
      if en = true ∧ a / 4 = idx ∧ m.getLsbD (a % 4) = true then lane v (a % 4) else ds.read a := by
  have hlane : a % 4 < 4 := Nat.mod_lt _ (by decide)
  rw [read_eq_lane_memRead, memRead_memWrite h, read_eq_lane_memRead ds]
  by_cases hword : en = true ∧ a / 4 = idx
  · obtain ⟨hen, rfl⟩ := hword
    simp [hen, lane_merge_of_lt _ _ _ hlane, mergeLane]
  · rw [if_neg hword, if_neg]
    rintro ⟨hen, hidx, _⟩
    exact hword ⟨hen, hidx⟩

/-- R42, R48: the bytes of the addressed word are those with its word number. -/
theorem State.inDsWord_iff (s : State) (a : Addr) (byte : Nat) :
    s.inDsWord a byte ↔ byte / 4 = widx a s.params.ddepth := by
  unfold inDsWord
  omega

/-- Settles O27: D_WRITE_DS drives a word, latches the ack bit and uses the write port, and the port replaces no byte outside the
addressed word and none whose lane is not selected. -/
theorem dataStoreWriteFrame : Obligations.DataStoreWriteFrame := by
  intro o s t hwf hexec
  obtain rfl : (s.dCycle (s.dsReadData o.adr) true).writeDs true o = t := by injection hexec
  refine ⟨⟨rfl, fun _ => rfl, rfl, rfl, rfl, rfl, rfl⟩, rfl, rfl, fun byte hout => ?_, fun byte _ hsel => ?_⟩
  · rw [State.inDsWord_iff] at hout
    rw [State.writeDs_ds, State.dCycle_ds, State.dCycle_params, read_memWrite hwf, if_neg]
    rintro ⟨_, hword, _⟩
    exact hout hword
  · rw [State.writeDs_ds, State.dCycle_ds, read_memWrite hwf, if_neg]
    rintro ⟨_, _, hset⟩
    exact Bool.false_ne_true (hsel.symm.trans hset)

/-- R116: the data-store arm of the read multiplexer. -/
theorem State.dReadData_of_dataStore {s : State} {a : Addr} (h : destOf a = .dataStore) :
    s.dReadData a = memRead s.ds (widx a s.params.ddepth) := by
  rw [dReadData, h, dsReadData]

/-- R151, R164: a write commits if the cycle requests, and a stray one if the free value takes it. -/
theorem commits_of_cyc_or_strayTakes {x : Input} {s : State} (hwe : x.dWe = true)
    (h : x.dCyc = true ∨ Config.strayTakes s.cycle = true) : (!isStray x || s.strayTakes) = true := by
  simpa [isStray, State.strayTakes, hwe] using h

/-- Settles O53: the word driven is read from the pre-edge store, and the write port merges into the word of the same index. -/
theorem writePortNotTransparent : Obligations.WritePortNotTransparent := by
  intro s t hwf hstep hdest
  obtain rfl := step_eq_next.mp hstep
  constructor
  · rw [State.afterCycle_dOut, State.dReadData_of_dataStore hdest, Option.map_some]
  · intro hwe hcommit
    have hds : dsWe s.currentInput = true := (dsWe_eq_true_iff _).mpr ⟨hdest, hwe⟩
    rw [State.afterCycle_ds, memRead_memWrite hwf, hds, commits_of_cyc_or_strayTakes hwe hcommit]
    exact if_pos ⟨rfl, rfl⟩

end Sys2Proof.Machine
end

section
/-! PROOFS. The output register (R100, R101, R113): which cycles load it and with what, what D_WRITE_OUT leaves alone, and the
indicator that shows its bit 0 (R103, R104). -/

namespace Sys2Proof.Machine

open Sys2Proof

/-- R101: a cycle that changes `OUT` has the output register's write enable, and loads the write data. -/
theorem outWe_of_afterCycle_out_ne {s : State} (h : s.afterCycle.out ≠ s.out) :
    outWe s.currentInput = true ∧ s.afterCycle.out = s.currentInput.dDatW := by
  rw [State.afterCycle_out] at h ⊢
  split at h
  case isTrue hload => exact ⟨(Bool.and_eq_true_iff.mp hload).1, if_pos hload⟩
  case isFalse => exact absurd rfl h

/-- R100: a requested write of the output register loads the full write data. -/
theorem State.afterCycle_out_of_write {s : State} (hdest : destOf s.currentInput.dAdr = .outputRegister)
    (hwe : s.currentInput.dWe = true) (hcyc : s.currentInput.dCyc = true) : s.afterCycle.out = s.currentInput.dDatW := by
  have hen : outWe s.currentInput = true := (outWe_eq_true_iff _).mpr ⟨hdest, hwe⟩
  rw [afterCycle_out, hen, commits_of_cyc_or_strayTakes hwe (.inl hcyc)]
  rfl

/-- Settles O51: a change needs the enable, which fixes destination and `d_we`; a requested write loads the data. -/
theorem outChangesOnlyByItsWrite : Obligations.OutChangesOnlyByItsWrite := by
  intro s t hstep
  obtain rfl := step_eq_next.mp hstep
  refine ⟨fun hne => ?_, State.afterCycle_out_of_write⟩
  obtain ⟨hen, hout⟩ := outWe_of_afterCycle_out_ne hne
  obtain ⟨hdest, hwe⟩ := (outWe_eq_true_iff _).mp hen
  exact ⟨hdest, hwe, hout⟩

/-- Settles O56: a cycle shows bit 0 of the `OUT` it starts from, so a requested write is shown by the next cycle. -/
theorem indicatorFollowsOutOneCycleLater : Obligations.IndicatorFollowsOutOneCycleLater := by
  intro s t u hst htu
  obtain rfl := step_eq_next.mp hst
  obtain rfl := step_eq_next.mp htu
  constructor
  · rw [State.afterCycle_indicator, State.indicatorNow]
  · intro hind hdest hwe hcyc
    rw [State.afterCycle_indicator, State.indicatorNow, State.afterCycle_params, if_pos hind,
      State.afterCycle_out_of_write hdest hwe hcyc]

/-- Settles O28: D_WRITE_OUT drives a word, latches the ack bit and loads `OUT`, and writes no other field. -/
theorem outputRegisterWriteFrame : Obligations.OutputRegisterWriteFrame := by
  intro o s t hexec
  obtain rfl : (s.dCycle s.outReadData true).writeOut true o = t := by injection hexec
  exact ⟨⟨rfl, fun _ => rfl, rfl, rfl, rfl, rfl, rfl⟩, fun _ => rfl, rfl⟩

end Sys2Proof.Machine
end

section
/-! PROOFS. What each operation within the contract answers: the word its segment drives with the pending ack bit, the next ack bit,
and its write (R115, R116, R120-R128, R140). -/

namespace Sys2Proof.Machine

open Sys2Proof

/-- Settles O13: I_IDLE is its segment's cycle without a request. -/
theorem instrIdleDrivesAndClearsAck : Obligations.InstrIdleDrivesAndClearsAck :=
  fun _ s => ⟨_, rfl, s.iCycle_iOut _ _, s.iCycle_ackI _ _⟩

/-- Settles O14: I_READ is its segment's cycle with a request. -/
theorem instrReadDrivesAndSetsAck : Obligations.InstrReadDrivesAndSetsAck :=
  fun _ s => ⟨_, rfl, s.iCycle_iOut _ _, s.iCycle_ackI _ _⟩

/-- R116: the output-register arm of the read multiplexer. -/
theorem State.dReadData_of_outputRegister {s : State} {a : Addr} (h : destOf a = .outputRegister) :
    s.dReadData a = Config.rOut s.cycle := by
  rw [dReadData, h, outReadData]

/-- R116: the unmapped arm of the read multiplexer. -/
theorem State.dReadData_of_unmapped {s : State} {a : Addr} (h : destOf a = .unmapped) : s.dReadData a = 0x00000000 := by
  rw [dReadData, h, unmappedReadData]

/-- Settles O15: D_IDLE drives what the read multiplexer gives, one arm per destination. -/
theorem dataIdleDrivesAndClearsAck : Obligations.DataIdleDrivesAndClearsAck := by
  intro o s
  refine ⟨s.dCycle (s.dReadData o.adr) false, rfl, fun hds => ?_, fun hunmapped => ?_, fun hout => ?_, s.dCycle_ackD _ _⟩
  · rw [State.dCycle_dOut, State.dReadData_of_dataStore hds]
  · rw [State.dCycle_dOut, State.dReadData_of_unmapped hunmapped]
  · rw [State.dCycle_dOut, State.dReadData_of_outputRegister hout]

/-- Settles O16: D_READ_DS drives the data-store arm and requests. -/
theorem dataStoreReadResult : Obligations.DataStoreReadResult :=
  fun _ s => ⟨_, rfl, s.dCycle_dOut _ _, s.dCycle_ackD _ _⟩

/-- Settles O17: D_READ_OUT drives the output-register arm and requests. -/
theorem outputRegisterReadResult : Obligations.OutputRegisterReadResult :=
  fun _ s => ⟨_, rfl, s.dCycle_dOut _ _, s.dCycle_ackD _ _⟩

/-- R125, R128: the rows of the unmapped read and of the unmapped write drive the unmapped arm, request, and write nothing. -/
theorem exec_unmapped {o : DOperands} {i : Instr}
    (hi : i ∈ [Instr.dReadUnm0 o, .dReadUnm3 o, .dReadUnm4to7 o, .dReadUnm8toF o] ∨
      i ∈ [Instr.dWriteUnm0 o, .dWriteUnm3 o, .dWriteUnm4to7 o, .dWriteUnm8toF o]) (s : State) :
    exec i s = .next (s.dCycle unmappedReadData true) := by
  simp only [List.mem_cons, List.not_mem_nil, or_false] at hi
  rcases hi with (rfl | rfl | rfl | rfl) | (rfl | rfl | rfl | rfl) <;> rfl

/-- Settles O18: the four rows are one operation. -/
theorem unmappedReadResult : Obligations.UnmappedReadResult :=
  fun _ s _ hi => ⟨_, exec_unmapped (.inl hi) s, s.dCycle_dOut _ _, s.dCycle_ackD _ _⟩

/-- R92: an enabled write leaves the merge at the addressed word. -/
theorem State.memRead_writeDs_enabled {s : State} (hwf : s.ds.wf = true) (o : DOperands) :
    memRead (s.writeDs true o).ds (widx o.adr s.params.ddepth) =
      merge (memRead s.ds (widx o.adr s.params.ddepth)) o.datW o.sel := by
  rw [writeDs_ds, memRead_memWrite hwf]
  exact if_pos ⟨rfl, rfl⟩

/-- Settles O19: D_WRITE_DS drives the word of the pre-edge store, requests, and uses the write port on it. -/
theorem dataStoreWriteResult : Obligations.DataStoreWriteResult :=
  fun o s hwf => ⟨(s.dCycle (s.dsReadData o.adr) true).writeDs true o, rfl, rfl, State.memRead_writeDs_enabled hwf o, rfl⟩

/-- Settles O20: D_WRITE_OUT drives the output-register arm, requests, and loads `OUT`; the mask is not read. -/
theorem outputRegisterWriteResult : Obligations.OutputRegisterWriteResult :=
  fun o s => ⟨(s.dCycle s.outReadData true).writeOut true o, rfl, rfl, rfl, rfl⟩

/-- Settles O21: the four rows are one operation, which is the cycle without a write. -/
theorem unmappedWriteResult : Obligations.UnmappedWriteResult :=
  fun _ s _ hi => ⟨_, exec_unmapped (.inr hi) s, s.dCycle_dOut _ _, s.dCycle_ds _ _, s.dCycle_out _ _,
    s.dCycle_ackD _ _⟩

end Sys2Proof.Machine
end

section
/-! PROOFS. The stray writes (R129-R131, R164): the six rows are one cycle, which differs between them in the word driven and in the two
write enables, and what that cycle changes. -/

namespace Sys2Proof.Machine

open Sys2Proof

/-- R164: the data segment's cycle without a request, its writes as enabled, and the record of the broken contract. -/
def State.strayCycle (s : State) (datR : Word) (enDs enOut : Bool) (o : DOperands) : State :=
  (((s.dCycle datR false).writeDs enDs o).writeOut enOut o).raiseContractFault .strayWrite

/-- R129: the free value of the cycle enables the data store. -/
theorem exec_dStrayDs (o : DOperands) (s : State) :
    exec (.dStrayDs o) s = .next (s.strayCycle (s.dsReadData o.adr) s.strayTakes false o) := rfl

/-- R130: the free value of the cycle enables the output register. -/
theorem exec_dStrayOut (o : DOperands) (s : State) :
    exec (.dStrayOut o) s = .next (s.strayCycle s.outReadData false s.strayTakes o) := rfl

/-- R131: the four rows of the unmapped stray write enable nothing. -/
theorem exec_strayUnmapped {o : DOperands} {i : Instr}
    (hi : i ∈ [Instr.dStrayUnm0 o, .dStrayUnm3 o, .dStrayUnm4to7 o, .dStrayUnm8toF o]) (s : State) :
    exec i s = .next (s.strayCycle unmappedReadData false false o) := by
  simp only [List.mem_cons, List.not_mem_nil, or_false] at hi
  rcases hi with rfl | rfl | rfl | rfl <;> rfl

/-- R129-R131: all six rows; only D_STRAY_DS can reach the data store and only D_STRAY_OUT the output register. -/
theorem exec_stray {o : DOperands} {i : Instr}
    (hi : i ∈ [Instr.dStrayDs o, .dStrayOut o, .dStrayUnm0 o, .dStrayUnm3 o, .dStrayUnm4to7 o, .dStrayUnm8toF o])
    (s : State) : ∃ datR enDs enOut, exec i s = .next (s.strayCycle datR enDs enOut o) ∧
      (i ≠ .dStrayOut o → enOut = false) ∧ (i ≠ .dStrayDs o → enDs = false) := by
  obtain rfl | hi := List.mem_cons.mp hi
  · exact ⟨_, _, _, exec_dStrayDs o s, fun _ => rfl, fun hne => absurd rfl hne⟩
  obtain rfl | hi := List.mem_cons.mp hi
  · exact ⟨_, _, _, exec_dStrayOut o s, fun hne => absurd rfl hne, fun _ => rfl⟩
  · exact ⟨_, _, _, exec_strayUnmapped hi s, fun _ => rfl, fun _ => rfl⟩

section
variable (s : State) (datR : Word) (enDs enOut : Bool) (o : DOperands)

@[simp] theorem State.strayCycle_dOut : (s.strayCycle datR enDs enOut o).dOut = some ⟨datR, s.ackD⟩ := rfl
@[simp] theorem State.strayCycle_ackD : (s.strayCycle datR enDs enOut o).ackD = false := rfl
@[simp] theorem State.strayCycle_faults : (s.strayCycle datR enDs enOut o).faults = addFault .strayWrite s.faults := rfl
@[simp] theorem State.strayCycle_ds : (s.strayCycle datR enDs enOut o).ds = (s.writeDs enDs o).ds := rfl
@[simp] theorem State.strayCycle_out : (s.strayCycle datR enDs enOut o).out = (s.writeOut enOut o).out := rfl

/-- R54: a stray cycle stays inside the data segment. -/
theorem State.strayCycle_sameOutsideDataSide : sameOutsideDataSide s (s.strayCycle datR enDs enOut o) :=
  ⟨rfl, fun _ => rfl, rfl, rfl, rfl, rfl, rfl⟩

/-- R29, R164: the recorded kinds are the old ones and `StrayWrite`. -/
theorem State.mem_strayCycle_faults {f : Fault} :
    f ∈ (s.strayCycle datR enDs enOut o).faults ↔ f = .strayWrite ∨ f ∈ s.faults := by
  rw [strayCycle_faults, mem_addFault]

theorem State.strayWrite_mem_strayCycle_faults : Fault.strayWrite ∈ (s.strayCycle datR enDs enOut o).faults :=
  (s.mem_strayCycle_faults datR enDs enOut o).mpr (.inl rfl)

end

/-- R92: the write port without its enable. -/
theorem State.writeDs_disabled (s : State) (o : DOperands) : (s.writeDs false o).ds = s.ds := rfl

/-- R113: the output register without its enable. -/
theorem State.writeOut_disabled (s : State) (o : DOperands) : (s.writeOut false o).out = s.out := rfl

/-- R42, R92: the write port reaches no byte outside the addressed word. -/
theorem State.read_writeDs_outside {s : State} {o : DOperands} {byte : Nat} (en : Bool) (h : ¬ s.inDsWord o.adr byte) :
    (s.writeDs en o).ds.read byte = s.ds.read byte := by
  unfold inDsWord at h
  exact read_memWrite_outside (by omega)

/-- R93: the write port changes no lane that the mask leaves out. -/
theorem State.read_writeDs_unselected {s : State} {o : DOperands} {byte : Nat} (hwf : s.ds.wf = true) (en : Bool)
    (h : o.sel.getLsbD (byte % 4) = false) : (s.writeDs en o).ds.read byte = s.ds.read byte := by
  rw [writeDs_ds, read_memWrite hwf, if_neg]
  rintro ⟨_, _, hset⟩
  exact Bool.false_ne_true (h.symm.trans hset)

/-- Settles O22: the two values of the cycle's draw. -/
theorem strayDataStoreWriteResult : Obligations.StrayDataStoreWriteResult := by
  intro o s hwf
  refine ⟨_, exec_dStrayDs o s, s.strayCycle_dOut _ _ _ _, s.strayWrite_mem_strayCycle_faults _ _ _ _,
    s.strayCycle_ackD _ _ _ _, ?_⟩
  rw [State.strayCycle_ds, State.strayTakes]
  cases Config.strayTakes s.cycle with
  | true => exact .inl ⟨rfl, State.memRead_writeDs_enabled hwf o⟩
  | false => exact .inr ⟨rfl, s.writeDs_disabled o⟩

/-- Settles O23: the two values of the cycle's draw. -/
theorem strayOutputRegisterWriteResult : Obligations.StrayOutputRegisterWriteResult := by
  intro o s
  refine ⟨_, exec_dStrayOut o s, s.strayCycle_dOut _ _ _ _, s.strayWrite_mem_strayCycle_faults _ _ _ _,
    s.strayCycle_ackD _ _ _ _, ?_⟩
  rw [State.strayCycle_out, State.strayTakes]
  cases Config.strayTakes s.cycle with
  | true => exact .inl ⟨rfl, rfl⟩
  | false => exact .inr ⟨rfl, s.writeOut_disabled o⟩

/-- Settles O24: the four rows are one operation, with both writes disabled. -/
theorem strayUnmappedWriteResult : Obligations.StrayUnmappedWriteResult :=
  fun o s _ hi => ⟨_, exec_strayUnmapped hi s, s.strayCycle_dOut _ _ _ _, s.strayWrite_mem_strayCycle_faults _ _ _ _,
    s.writeDs_disabled o, s.writeOut_disabled o, s.strayCycle_ackD _ _ _ _⟩

/-- Settles O29: a stray cycle's writes are the ports' own, and a port the row does not drive is disabled. -/
theorem strayWriteFrame : Obligations.StrayWriteFrame := by
  intro o s t i hi hwf hexec
  obtain ⟨datR, enDs, enOut, hstray, hout, hds⟩ := exec_stray hi s
  obtain rfl : s.strayCycle datR enDs enOut o = t := by simpa [hstray] using hexec
  refine ⟨s.strayCycle_sameOutsideDataSide _ _ _ _, fun f => s.mem_strayCycle_faults _ _ _ _, fun hne => ?_,
    fun hne byte => ?_, fun byte houtside => ?_, fun byte _ hsel => ?_⟩
  · rw [State.strayCycle_out, hout hne, State.writeOut_disabled]
  · rw [State.strayCycle_ds, hds hne, State.writeDs_disabled]
  · exact State.read_writeDs_outside enDs houtside
  · exact State.read_writeDs_unselected hwf enDs hsel

end Sys2Proof.Machine
end

section
/-! PROOFS. The two operations of a cycle commute (R54, R110): the instruction segment's is one `State.iCycle`, and a data-segment
operation neither reads what that writes nor writes what that reads. -/

namespace Sys2Proof.Machine

open Sys2Proof

/-- R120, R121: an instruction-segment operation drives its word and latches its `cyc`. -/
theorem exec_of_instrSegment {i : Instr} (hi : i.row.seg = false) (s : State) :
    exec i s = .next (s.iCycle (s.iReadData i.operands.adr) i.row.cyc) := by
  cases i with
  | iIdle a => rfl
  | iRead a => rfl
  | _ => cases hi

/-- R54: a data-segment operation is a function of the state that the instruction segment's update passes through, and it leaves
the instruction segment's read data alone. -/
theorem exec_of_dataSegment {d : Instr} (hd : d.row.seg = true) :
    ∃ f : State → State, (∀ s, exec d s = .next (f s)) ∧ (∀ s datR cyc, f (s.iCycle datR cyc) = (f s).iCycle datR cyc) ∧
      ∀ s a, (f s).iReadData a = s.iReadData a := by
  cases d with
  | iIdle | iRead => cases hd
  | _ => exact ⟨_, fun _ => rfl, fun _ _ _ => rfl, fun _ _ => rfl⟩

/-- Settles O34: in both orders the instruction segment reads the same word, and its update passes through the other operation. -/
theorem segmentOperationsCommute : Obligations.SegmentOperationsCommute := by
  intro s i d hi hd
  obtain ⟨f, hexec, hpass, hread⟩ := exec_of_dataSegment hd
  rw [exec_of_instrSegment hi, andThen_next, hexec, hexec, andThen_next, exec_of_instrSegment hi, hpass, hread]

end Sys2Proof.Machine
end

section
/-! PROOFS. The bus in a whole cycle: what both segments drive (R115, R116), which cycles write the data store (R92, R112), what an
unmapped cycle leaves alone (R114), and the write seen by the next cycle's read (R132). -/

namespace Sys2Proof.Machine

open Sys2Proof

/-- Settles O46: a cycle drives the instruction store's read port. -/
theorem instrReadDataEveryCycle : Obligations.InstrReadDataEveryCycle := by
  intro s t hstep
  obtain rfl := step_eq_next.mp hstep
  rw [State.afterCycle_iOut, Option.map_some, State.iReadData]

/-- Settles O47: a cycle drives the read multiplexer, one arm per destination. -/
theorem dataReadDataEveryCycle : Obligations.DataReadDataEveryCycle := by
  intro s t hstep
  obtain rfl := step_eq_next.mp hstep
  rw [State.afterCycle_dOut, Option.map_some]
  cases hdest : destOf s.currentInput.dAdr with
  | dataStore => rw [State.dReadData_of_dataStore hdest]
  | outputRegister => rw [State.dReadData_of_outputRegister hdest]
  | unmapped => rw [State.dReadData_of_unmapped hdest]

/-- Settles O50: within the contract the port's enable is R112's alone, and the port merges into the word of its index. -/
theorem dataStoreWriteGating : Obligations.DataStoreWriteGating := by
  intro s t hwf hstray hstep k
  obtain rfl := step_eq_next.mp hstep
  rw [State.afterCycle_ds, memRead_memWrite hwf, hstray, Bool.not_false, Bool.true_or, Bool.and_true]
  simp only [dsWe_eq_true_iff, and_assoc]
  split
  case isTrue hwrite =>
    obtain ⟨_, _, hidx⟩ := hwrite
    rw [hidx]
  case isFalse => rfl

/-- Settles O52: with neither enable a cycle changes no storage, and the unmapped arm of the read multiplexer is zero. -/
theorem unmappedCycleChangesNoStorage : Obligations.UnmappedCycleChangesNoStorage := by
  intro s t hstep hunmapped
  obtain rfl := step_eq_next.mp hstep
  obtain ⟨hds, hout⟩ := (writeEnablesExclude s.currentInput).2 hunmapped
  refine ⟨hds, hout, s.afterCycle_is, ?_, ?_, s.afterCycle_params, ?_, s.afterCycle_ackI, s.afterCycle_ackD, fun hstray => ?_⟩
  · rw [State.afterCycle_ds, hds, Bool.false_and]
    rfl
  · rw [State.afterCycle_out, hout, Bool.false_and]
    rfl
  · rw [State.afterCycle_dOut, State.dReadData_of_unmapped hunmapped]
    rfl
  · rw [State.afterCycle_faults, hstray]
    rfl

/-- Settles O54: by O53 the merged word stands in the next state, and the read of the next cycle has its index. -/
theorem nextCycleReadSeesTheWrite : Obligations.NextCycleReadSeesTheWrite := by
  intro s t u hwf hst htu hdest hwe hcyc hdest' hidx
  obtain ⟨_, hwrite⟩ := writePortNotTransparent s t hwf hst hdest
  have hmerged := hwrite hwe (.inl hcyc)
  obtain rfl := step_eq_next.mp hst
  obtain rfl := step_eq_next.mp htu
  rw [State.afterCycle_dOut, State.dReadData_of_dataStore hdest', State.afterCycle_params, hidx, hmerged,
    State.afterCycle_ackD, hcyc]

end Sys2Proof.Machine
end

section
/-! PROOFS. The ack machine of each segment (R140-R143): a cycle drives the pending bit and latches its own request, so over a run
the acks are the requests one cycle later. -/

namespace Sys2Proof.Machine

open Sys2Proof

/-- R141: a cycle drives the pending ack of the instruction segment. -/
theorem State.afterCycle_iOut_ack (s : State) : s.afterCycle.iOut.map SegOut.ack = some s.ackI :=
  congrArg (Option.map SegOut.ack) s.afterCycle_iOut

/-- R141: a cycle drives the pending ack of the data segment. -/
theorem State.afterCycle_dOut_ack (s : State) : s.afterCycle.dOut.map SegOut.ack = some s.ackD :=
  congrArg (Option.map SegOut.ack) s.afterCycle_dOut

/-- Settles O48: each latch drives what it holds and takes its segment's request bit. -/
theorem ackMachinePerSegment : Obligations.AckMachinePerSegment := by
  intro s t hstep
  obtain rfl := step_eq_next.mp hstep
  exact ⟨s.afterCycle_iOut_ack, s.afterCycle_ackI, s.afterCycle_dOut_ack, s.afterCycle_ackD⟩

/-! ## Over a run -/

/-- R140: the ack pending after a cycle of a run is that cycle's instruction-segment request. -/
theorem ackI_iterate_succ (s : State) (k : Nat) : (State.afterCycle^[k + 1] s).ackI = (s.inputAt k).iCyc := by
  rw [Function.iterate_succ_apply', State.afterCycle_ackI, currentInput_iterate]

/-- R140: the ack pending after a cycle of a run is that cycle's data-segment request. -/
theorem ackD_iterate_succ (s : State) (k : Nat) : (State.afterCycle^[k + 1] s).ackD = (s.inputAt k).dCyc := by
  rw [Function.iterate_succ_apply', State.afterCycle_ackD, currentInput_iterate]

/-- The acks of an `n`-cycle instruction-segment trace are the bits pending before each of its cycles. -/
theorem iTrace_acks (n : Nat) (s : State) :
    (iTrace n s).map (Option.map SegOut.ack) = ((List.range n).map fun k => (State.afterCycle^[k] s).ackI).map some := by
  rw [iTrace_eq, List.map_map, List.map_map]
  refine List.map_congr_left fun k _ => ?_
  rw [Function.comp_apply, Function.iterate_succ_apply', State.afterCycle_iOut_ack, Function.comp_apply]

/-- The acks of an `n`-cycle data-segment trace are the bits pending before each of its cycles. -/
theorem dTrace_acks (n : Nat) (s : State) :
    (dTrace n s).map (Option.map SegOut.ack) = ((List.range n).map fun k => (State.afterCycle^[k] s).ackD).map some := by
  rw [dTrace_eq, List.map_map, List.map_map]
  refine List.map_congr_left fun k _ => ?_
  rw [Function.comp_apply, Function.iterate_succ_apply', State.afterCycle_dOut_ack, Function.comp_apply]

section
variable {pending request : Nat → Bool} (hlatch : ∀ k, pending (k + 1) = request k) (n : Nat)
include hlatch

/-- A latch holds, over `n + 1` cycles, its first bit and then what was requested in the first `n`. -/
theorem map_range_succ_of_latch :
    (List.range (n + 1)).map pending = pending 0 :: (List.range n).map request := by
  rw [List.range_succ_eq_map, List.map_cons, List.map_map]
  exact congrArg _ (List.map_congr_left fun k _ => hlatch k)

/-- R140: a latch's bits over `n` cycles, cut out of its first bit and all `n` requests. -/
theorem map_range_of_latch :
    (List.range n).map pending = (pending 0 :: (List.range n).map request).take n := by
  rw [← map_range_succ_of_latch hlatch, ← List.map_take, List.take_range, Nat.min_eq_left n.le_succ]

end

/-- R143: from no ack pending, there are as many data-segment acks in `n + 1` cycles as requests in the first `n`. -/
theorem countP_ack_dTrace {s : State} (hidle : s.ackD = false) (n : Nat) :
    (dTrace (n + 1) s).countP (fun o => o.any SegOut.ack) = (List.range n).countP fun k => (s.inputAt k).dCyc := by
  have hany : (fun o : Option SegOut => o.any SegOut.ack) = (Option.any id ∘ Option.map SegOut.ack) := by
    funext o
    cases o <;> rfl
  rw [hany, ← List.countP_map, dTrace_acks, map_range_succ_of_latch (ackD_iterate_succ s), Function.iterate_zero_apply, hidle,
    List.countP_map, List.countP_cons_of_neg (by simp), List.countP_map]
  rfl

/-- Settles O49: both ack bits are latches of their requests, and the count clause is `countP_ack_dTrace`. -/
theorem acksAreRequestsOneCycleLater : Obligations.AcksAreRequestsOneCycleLater := by
  intro n s
  refine ⟨?_, ?_, fun hidle => countP_ack_dTrace hidle n⟩
  · rw [iTrace_acks, map_range_of_latch (ackI_iterate_succ s), Function.iterate_zero_apply]
  · rw [dTrace_acks, map_range_of_latch (ackD_iterate_succ s), Function.iterate_zero_apply]

end Sys2Proof.Machine
end

section
/-! PROOFS. The complete cycle step (R151-R154, R160): the state after a cycle is the whole-fabric function's, every cycle has one, and
the two draws reach it only where the spec leaves them open. -/

namespace Sys2Proof.Machine

open Sys2Proof

/-- R116, R151: with the cycle's free value as its draw, the function's word is the read multiplexer's. -/
theorem cycleOutputs_dDatR (s : State) (x : Input) :
    (cycleOutputs s x (Config.rOut s.cycle)).dDatR = s.dReadData x.dAdr := by
  cases hdest : destOf x.dAdr with
  | dataStore => rw [State.dReadData_of_dataStore hdest, cycleOutputs, hdest]
  | outputRegister => rw [State.dReadData_of_outputRegister hdest, cycleOutputs, hdest]
  | unmapped => rw [State.dReadData_of_unmapped hdest, cycleOutputs, hdest]

/-- R151: the two operations of a cycle leave, in every field, what the whole-fabric function assigns. -/
theorem State.afterCycle_eq_cycleNext (s : State) :
    s.afterCycle = cycleNext s s.currentInput (Config.rOut s.cycle) (Config.strayTakes s.cycle) := by
  apply State.ext
  case params => exact s.afterCycle_params
  case is => exact s.afterCycle_is
  case ds => exact s.afterCycle_ds
  case out => exact s.afterCycle_out
  case ackI => exact s.afterCycle_ackI
  case ackD => exact s.afterCycle_ackD
  case faults => exact s.afterCycle_faults
  case cycle => exact s.afterCycle_cycle
  case script => exact s.afterCycle_script
  case iOut => exact s.afterCycle_iOut
  case dOut =>
    rw [afterCycle_dOut, ← cycleOutputs_dDatR]
    rfl
  case indicator => exact s.afterCycle_indicator

/-- Settles O32: a step answers `State.afterCycle`, which is the function's next state field by field. -/
theorem stepIsTheCycleFunction : Obligations.StepIsTheCycleFunction := by
  intro s
  rw [step_eq, State.afterCycle_eq_cycleNext]

/-- R154: a run of `n` cycles ends `n` cycles later. -/
theorem cycle_iterate (n : Nat) (s : State) : (State.afterCycle^[n] s).cycle = s.cycle + n := by
  induction n with
  | zero => rfl
  | succ n ih => rw [Function.iterate_succ_apply', State.afterCycle_cycle, ih, Nat.add_assoc]

/-- Settles O33: a run answers an iterate of `State.afterCycle`, and each cycle counts one. -/
theorem everyCycleCompletes : Obligations.EveryCycleCompletes :=
  fun n s => ⟨_, run_eq n s, cycle_iterate n s⟩

/-! ## The draws -/

section
variable (s : State) {x : Input}

/-- R153: away from the output register the outputs do not depend on the word drawn. -/
theorem cycleOutputs_congr_rOut (h : destOf x.dAdr ≠ .outputRegister) (r r' : Word) :
    cycleOutputs s x r = cycleOutputs s x r' := by
  unfold cycleOutputs
  cases hdest : destOf x.dAdr with
  | dataStore | unmapped => rfl
  | outputRegister => exact absurd hdest h

/-- R151: the next state holds the word drawn only in the record of the outputs. -/
theorem cycleNext_congr_outputs {r r' : Word} (h : cycleOutputs s x r = cycleOutputs s x r') (b : Bool) :
    cycleNext s x r b = cycleNext s x r' b := by
  simp only [cycleNext, h]

/-- R153: in a cycle that is not stray every write commits, whichever way the race is drawn. -/
theorem cycleNext_congr_strayTakes (h : isStray x = false) (r : Word) (b b' : Bool) :
    cycleNext s x r b = cycleNext s x r b' := by
  simp only [cycleNext, h, Bool.not_false, Bool.true_or]

end

/-- Settles O35: the race's draw drops out of a cycle that is not stray, and the drawn word is read at the output register only, and
there goes into what the data segment drove and nowhere else. -/
theorem drawsMatterOnlyWhereOpen : Obligations.DrawsMatterOnlyWhereOpen := by
  intro s x r r' b b'
  refine ⟨fun hstray hdest => ?_, fun hstray => ?_, fun hdest => cycleOutputs_congr_rOut s hdest r r'⟩
  · rw [cycleNext_congr_strayTakes s hstray r b b']
    exact cycleNext_congr_outputs s (cycleOutputs_congr_rOut s hdest r r') b'
  · rw [cycleNext_congr_strayTakes s hstray r b b']
    rfl

end Sys2Proof.Machine
end

section
/-! PROOFS. The fault record over a run (R29, R164): a cycle adds `StrayWrite` if it is a stray write, and nothing else touches the
record, so what a run leaves recorded is what was recorded before it and its own stray writes. -/

namespace Sys2Proof.Machine

open Sys2Proof

/-- R29, R164: a cycle records `StrayWrite` if it is a stray write, no other kind, and forgets none. -/
theorem State.mem_afterCycle_faults (s : State) {f : Fault} :
    f ∈ s.afterCycle.faults ↔ f ∈ s.faults ∨ f = .strayWrite ∧ isStray s.currentInput = true := by
  rw [afterCycle_faults]
  cases hstray : isStray s.currentInput with
  | true => simp [mem_addFault, or_comm]
  | false => simp

/-- R29, R164: the kinds recorded after `n` cycles are the old ones, and `StrayWrite` if one of the cycles was a stray write. -/
theorem mem_faults_iterate (n : Nat) (s : State) {f : Fault} :
    f ∈ (State.afterCycle^[n] s).faults ↔
      f ∈ s.faults ∨ f = .strayWrite ∧ ∃ k, k < n ∧ isStray (s.inputAt k) = true := by
  induction n with
  | zero => simp
  | succ n ih =>
    rw [Function.iterate_succ_apply', State.mem_afterCycle_faults, ih, currentInput_iterate, Nat.exists_lt_succ_right,
      and_or_left, or_assoc]

/-- Settles O58: the contract is kept where `StrayWrite` is not among the kinds that the run's start and its cycles record. -/
theorem faultsRecordStrayCyclesForever : Obligations.FaultsRecordStrayCyclesForever := by
  intro n s t hrun
  obtain rfl := run_eq_next.mp hrun
  refine ⟨?_, fun f hf => (mem_faults_iterate n s).mpr (.inl hf)⟩
  simp [State.contractKept, mem_faults_iterate]

end Sys2Proof.Machine
end

section
/-! PROOFS. Construction's checks in their order (R7, R180), the invariant of what passes them (R32), and the words of a loaded byte
stream (R182). A sequence of words laid out as bytes, and its length, serve both: the image's store stays inside its depth, and the
loader's words are those whose bytes are the stream. -/

namespace Sys2Proof.Machine

open Sys2Proof

/-! ## The checks -/

/-- R7: the legal depths are the powers of two from 1 to `2^26`. -/
theorem validDepth_iff {d : Nat} : validDepth d = true ↔ (∃ k, d = 2 ^ k) ∧ 1 ≤ d ∧ d ≤ 2 ^ 26 := by
  simp only [validDepth, List.any_eq_true, List.mem_range, beq_iff_eq]
  constructor
  · rintro ⟨k, hk, rfl⟩
    exact ⟨⟨k, rfl⟩, Nat.one_le_two_pow, Nat.pow_le_pow_right (by decide) (Nat.le_of_lt_succ hk)⟩
  · rintro ⟨⟨k, rfl⟩, _, hle⟩
    exact ⟨k, Nat.lt_succ_of_le ((Nat.pow_le_pow_iff_right (by decide)).mp hle), rfl⟩

section
variable {c : Config}

/-- R180: a bad instruction-store depth is refused before anything else is looked at. -/
theorem construct_of_bad_idepth (hi : validDepth c.params.idepth = false) :
    construct c = .refused (.badDepth c.params.idepth) := by
  simp [construct, hi]

/-- R180: a bad data-store depth is refused before the image is looked at. -/
theorem construct_of_bad_ddepth (hi : validDepth c.params.idepth = true) (hd : validDepth c.params.ddepth = false) :
    construct c = .refused (.badDepth c.params.ddepth) := by
  simp [construct, hi, hd]

/-- R97, R180: with legal depths, an image longer than the instruction store is refused. -/
theorem construct_of_long_image (hi : validDepth c.params.idepth = true) (hd : validDepth c.params.ddepth = true)
    (hlen : c.params.idepth < c.image.length) :
    construct c = .refused (.imageTooLong c.image.length c.params.idepth) := by
  simp [construct, hi, hd, hlen]

end

/-- Settles O41: the legal depths, and one lemma for each way through the checks. -/
theorem constructionChecksInOrder : Obligations.ConstructionChecksInOrder :=
  fun _ => ⟨fun _ => validDepth_iff, construct_of_bad_idepth, construct_of_bad_ddepth, construct_of_long_image,
    fun hi hd hlen => ⟨_, construct_of_checks hi hd hlen⟩⟩

/-! ## The invariant -/

/-- R48: a word is four bytes. -/
theorem length_flatMap_wordBytes (ws : List Word) : (ws.flatMap wordBytes).length = 4 * ws.length := by
  induction ws with
  | nil => rfl
  | cons w ws ih =>
    have hlen : (wordBytes w).length = 4 := rfl
    rw [List.flatMap_cons, List.length_append, hlen, ih, List.length_cons]
    omega

/-- Bytes that end inside a store's depth build a store inside it. -/
theorem Memory.ofBytes_within {d : Nat} (bytes : List Byte) :
    ∀ {a : Nat}, a + bytes.length ≤ 4 * d → (Memory.ofBytes a bytes).within d = true := by
  induction bytes with
  | nil => exact fun _ => rfl
  | cons b rest ih =>
    intro a h
    rw [List.length_cons] at h
    exact consCell_within (ih (by omega)) (by omega)

/-- R23: an image that fits makes a store inside the depth. -/
theorem imageStore_within {d : Nat} {image : List Word} (h : image.length ≤ d) : (imageStore image).within d = true := by
  refine Memory.ofBytes_within _ ?_
  rw [length_flatMap_wordBytes]
  omega

/-- Settles O39: the checks give the legal depths and the image's bound; the data store and the fault set start empty. -/
theorem constructionEstablishesInv : Obligations.ConstructionEstablishesInv := by
  intro c s h
  obtain ⟨hi, hd, hlen, rfl⟩ := construct_eq_next h
  exact {
    idepth_valid := hi
    ddepth_valid := hd
    is_wf := imageStore_wf c.image
    ds_wf := reset_wf.2
    is_within := imageStore_within hlen
    ds_within := rfl
    faults_nodup := List.nodup_nil }

/-! ## The loader -/

/-- R48: `getD_flatMap_wordBytes` for a word of the sequence, without a default. -/
theorem getElem?_flatMap_wordBytes {ws : List Word} {k i : Nat} (hk : k < ws.length) (hi : i < 4) :
    (ws.flatMap wordBytes)[4 * k + i]? = some (lane ws[k] i) := by
  have hn : 4 * k + i < (ws.flatMap wordBytes).length := by
    rw [length_flatMap_wordBytes]
    omega
  rw [List.getElem?_eq_getElem hn, ← List.getD_eq_getElem _ 0 hn, getD_flatMap_wordBytes ws hi,
    List.getD_eq_getElem _ 0 hk]

/-- R182, D9: the loader refuses every other stream, with its length. -/
theorem loadImage_of_ragged {bytes : List Byte} (h : bytes.length % 4 ≠ 0) :
    loadImage bytes = .error (.imageNotWordMultiple bytes.length) := if_pos h

/-- Settles O43: laid out as bytes again, the loaded words are the stream, so both its length and its bytes are theirs. -/
theorem loaderGroupsLittleEndian : Obligations.LoaderGroupsLittleEndian := by
  refine fun bytes => ⟨loadImage_of_ragged, fun hlen => ⟨imageWords bytes, loadImage_eq_ok.mpr ⟨hlen, rfl⟩, ?_⟩⟩
  have hbytes : (imageWords bytes).flatMap wordBytes = bytes := flatMap_wordBytes_imageWords hlen
  constructor
  · rw [← congrArg List.length hbytes, length_flatMap_wordBytes, Nat.mul_div_cancel_left _ (by decide)]
  · intro k hk i hi
    rw [← congrArg (·[4 * k + i]?) hbytes, getElem?_flatMap_wordBytes hk hi, List.getElem?_eq_getElem hk, Option.map_some]

end Sys2Proof.Machine
end

section
/-! PROOFS. A read whose address is held through the ack cycle (R188): the request's cycle changes none of the words that the ack
cycle's read ports look at, and leaves the ack pending. -/

namespace Sys2Proof.Machine

open Sys2Proof

/-- R57: a cycle leaves every word of the instruction segment's read port as it was. -/
@[simp] theorem State.iReadData_afterCycle (s : State) (a : Addr) : s.afterCycle.iReadData a = s.iReadData a := by
  rw [iReadData, afterCycle_is, afterCycle_params, iReadData]

/-- R112: a cycle with `d_we = 0` leaves the data store as it was. -/
theorem State.afterCycle_ds_of_read {s : State} (h : s.currentInput.dWe = false) : s.afterCycle.ds = s.ds := by
  have hen : dsWe s.currentInput = false := by rw [dsWe, h, Bool.and_false]
  rw [afterCycle_ds, hen, Bool.false_and]
  rfl

/-- Settles O55: the ack cycle drives the same port at the same address, over a store that the request left alone. -/
theorem heldReadSamplesTheRequestedWord : Obligations.HeldReadSamplesTheRequestedWord := by
  intro s t u hst htu
  obtain rfl := step_eq_next.mp hst
  obtain rfl := step_eq_next.mp htu
  refine ⟨fun hcyc hheld => ?_, fun hcyc hwe hheld => ?_⟩
  · rw [State.afterCycle_iOut, hheld, State.iReadData_afterCycle, State.afterCycle_ackI, hcyc, State.iReadData]
  · rw [State.afterCycle_dOut, hheld, State.afterCycle_ackD, hcyc]
    constructor
    · intro hds
      rw [State.dReadData_of_dataStore hds, State.afterCycle_ds_of_read hwe, State.afterCycle_params]
    · intro hunmapped
      rw [State.dReadData_of_unmapped hunmapped]

end Sys2Proof.Machine
end
